-- ==== Sys2Proof/Word.lean ====
section
/-!
DEFINITION. The word types of the block and the plainest arithmetic on them (spec/00_scope.md R6).
-/

namespace Sys2Proof

/-- One byte: a byte of the source, a palette index (R4: pixel width 8 bits). -/
abbrev Byte := BitVec 8

/-- One host register word (R11: 32 bits). -/
abbrev Word := BitVec 32

/-- A code zero-extended to 12 bits (R67), which is also an index of the code table (R24). -/
abbrev Code := BitVec 12

/-- The number of bits needed to write `v` (R6: `bitlen(0) = 0`, `bitlen(7) = 3`, `bitlen(8) = 4`). -/
def bitlen (v : Nat) : Nat := if v = 0 then 0 else Nat.log2 v + 1

/-- Whether `v` is 1, 2, 4, 8, ... (R6). -/
def isPow2 (v : Nat) : Bool := v == 2 ^ Nat.log2 v

end Sys2Proof
end

