-- ==== Sys2Proof/Config.lean ====
section
/-!
DEFINITION. What an implementation fixes: the constants the document fixes, the two parameters of the step
relation, the platform's base addresses and the free values (spec/00_scope.md R4, spec/20_memory.md R47).
-/

namespace Sys2Proof

/-- The cap of the code table (R4 `MAX_ENTRIES`). -/
def maxEntries : Nat := 4096

/-- The ceiling of the code width (R4 `MAX_WIDTH`). -/
def maxWidth : Nat := 12

/-- The least legal minimum code size (R4 `S_MIN`). -/
def sizeMin : Nat := 2

/-- The greatest legal minimum code size (R4 `S_MAX`). -/
def sizeMax : Nat := 8

/-- The parameters of the block (R4, D3, D12). R10 and R31 say that they are arguments of the step relation,
not state: `State` carries them only because the host fixes the form of `step` (log 2). -/
structure Params where
  /-- `TABLE_DEPTH`: the number of entries the table RAM holds. -/
  tableDepth : Nat
  /-- `REPAIR_ON_FILL`: whether the entry that fills the table gets the suffix repair. -/
  repairOnFill : Bool
  deriving DecidableEq, Repr

/-- The defaults of R4. -/
def Params.default : Params := { tableDepth := 4096, repairOnFill := true }

/-- R4: any `TABLE_DEPTH` in [258, 4096]. -/
def Params.wf (p : Params) : Bool := decide (258 ≤ p.tableDepth ∧ p.tableDepth ≤ 4096)

/-- FREE VALUE (R170, U3; log 7): the byte that the frame buffer holds at an address after the `n`-th run
abandoned by a hardware reset. No body: nothing can be proved of it. First argument `n`, second the address. -/
opaque Config.freeByte : Nat → Nat → Byte

/-- `FB_BASE` (R47): where the platform puts the frame buffer. No rule depends on it. -/
opaque Config.fbBase : Nat

/-- `REG_BASE` (R47): where the platform puts the registers. No rule depends on it. -/
opaque Config.regBase : Nat

end Sys2Proof
end

