-- ==== Sys2Proof/Machine/State.lean ====
section
/-!
DEFINITION. The state of the block and of the environment it changes, as plain data (spec/10_state.md R10 to R31),
the reasons a step can stop, and the state right after hardware reset (R29, spec/70_reset_and_hazards.md R170).
-/

namespace Sys2Proof.Machine

/-- `STATUS.STATE` (R13). -/
inductive RunState where
  /-- No decode since hardware reset (0). -/
  | idle
  /-- A decode is in progress (1). -/
  | busy
  /-- The last decode ended at a stop code (2). -/
  | done
  /-- The last decode ended in a fault (3). -/
  | fault
  deriving DecidableEq, Repr

/-- The causes of R151; `STATUS.CAUSE = 0` is the absence of a cause. -/
inductive Cause where
  | outOfMemory
  | badMinCodeSize
  | prematureTerminator
  | unexpectedEof
  | invalidCode
  | fbRange
  | badGeometry
  deriving DecidableEq, Repr

/-- `PHASE` (R20): which step is enabled while `BUSY`. -/
inductive Phase where
  /-- `P_INIT` (0). -/
  | init
  /-- `P_SYMBOL` (1). -/
  | symbol
  deriving DecidableEq, Repr

/-- An entry of the code table (R24, D4); no predecessor is the sentinel `NONE`. -/
structure Entry where
  len : BitVec 13
  pfx : Option Code
  suffix : Byte
  deriving DecidableEq, Repr

/-- The step-local conditions (R28 b, c; R82 `got`; R85), at rest between steps (log 12). -/
structure Flight where
  /-- This step inserted an entry. -/
  inserted : Bool
  /-- The insertion of this step brought `NENT` to a power of two below 4096. -/
  grow : Bool
  /-- The bits of the in-flight code already assembled. -/
  got : Nat
  /-- Bytes are being discarded by `Drain`, not read for a code. -/
  draining : Bool
  deriving DecidableEq, Repr

/-- Between steps. -/
def Flight.rest : Flight := { inserted := false, grow := false, got := 0, draining := false }

/-- One entry of the script that says whose turn it is (log 1). -/
inductive EnvEvent where
  /-- The block's turn. -/
  | tick
  /-- The host writes `v` with an access of `bits` bits at byte offset `off` (R141 to R143). -/
  | write (bits off : Nat) (v : Word)
  /-- The host reads with an access of `bits` bits at byte offset `off` (R140). -/
  | read (bits off : Nat)
  /-- The hardware reset input (R170). -/
  | reset
  /-- The environment places the byte source (R172 c). -/
  | source (bytes : List Byte)
  /-- The environment writes a byte of the frame buffer (R174: a disposal method, a clear). -/
  | frame (a : Nat) (v : Byte)
  deriving DecidableEq, Repr

/-- What the environment sees on the two ports of the block (R5): a byte consumed from the source, a byte written
to the frame buffer. -/
inductive PortEvent where
  | consumed (b : Byte)
  | wrote (a : Nat) (v : Byte)
  deriving DecidableEq, Repr

/-- The state (R10). Names of the spec in the order of `INVENTORY.md`. -/
structure State where
  -- host registers (R11 to R18)
  state : RunState
  cause : Option Cause
  trail : Bool
  x : BitVec 16
  y : BitVec 16
  w : BitVec 16
  cw : BitVec 16
  ch : BitVec 16
  off : BitVec 32
  info : Word
  -- decoder registers (R20)
  phase : Phase
  /-- `S`. -/
  size : BitVec 4
  width : BitVec 4
  nent : BitVec 13
  full : Bool
  hasPrev : Bool
  prevCode : Code
  prevLen : BitVec 13
  prevFirst : Byte
  -- bit-reader registers (R21)
  cur : Byte
  shift : BitVec 3
  subrem : BitVec 8
  /-- The code table (R24): exactly the entries that R25 gives a defined value, by index (log 5). -/
  table : List (Nat × Entry)
  /-- The byte source (R26): the bytes not consumed yet; then end of stream for ever. -/
  bs : List Byte
  /-- The frame buffer (R27), by address; an unlisted byte has no value known to the model (log 4). -/
  fb : List Host.Cell
  -- step-local conditions (R28)
  flight : Flight
  /-- What has been seen on the two ports so far, the newest first (R5, R51; log 19). -/
  ports : List PortEvent
  -- the parameters (R4; log 2)
  params : Params
  -- the model's own fields
  /-- The script of the environment; the empty script is block turns for ever (log 1). -/
  env : List EnvEvent
  /-- The word the last register read returned (R140; log 13). -/
  hostData : Option Word
  /-- How many runs a hardware reset has abandoned: names the free bytes of each (log 7). -/
  freeCtr : Nat
  deriving DecidableEq, Repr

/-- The reasons for which the machine stops with a fault. None is a fault of the block: those are next states
(R150). -/
inductive Fault where
  /-- Raised by a pixel write while `W = 0`: R45 gives `FbAddr` for `W >= 1` only and `INIT` has tested `W`; no run
  reaches it (log 8). Safe. -/
  | zeroWidth
  /-- Raised by the walk of a chain that has more entries than the table can hold; R107 excludes it in every run
  (log 8). Safe. -/
  | cyclicChain
  /-- Raised by the walk at an entry of length 0, which R24 excludes; no run reaches it (log 8). Safe. -/
  | emptyRun
  /-- Raised by the fetch of a code while `WIDTH` is not 3..12, for which R83 is not given; no run reaches it
  (log 8). Safe. -/
  | widthRange
  /-- Raised by the environment's write to a byte at or above `CW * CH`, which does not exist (R27). Safe. -/
  | noSuchFrameByte
  deriving DecidableEq, Repr

/-- The reasons for which the model gives no meaning. -/
inductive Refusal where
  /-- An instruction without a meaning yet: raised by the arms of `exec` only. Safe. -/
  | notModelled (mnemonic : String)
  /-- Raised by a register access that is not a 32-bit access at one of the eight offsets (R48, U23). Safe. -/
  | registerAccess
  /-- Raised by a read of a table entry that has no defined value (R25, U8: refuse a read); no run reaches it
  (log 5). Safe. -/
  | unspecifiedEntry
  /-- Raised by the environment moving the byte source while `BUSY` (R173, U4, U6). Safe. -/
  | sourceInUse
  /-- Raised by the environment writing the frame buffer while `BUSY` (R56, R173, U5). Safe. -/
  | frameInUse
  deriving DecidableEq, Repr

/-- What a step of the machine answers. -/
abbrev Result := Host.Outcome State Fault Refusal

/-- Right after hardware reset (R29's first column, R170). `BS` and `FB` are the environment's (logs 3, 4), the
parameters are the defaults of R4 (log 2). -/
def State.reset : State where
  state := .idle
  cause := none
  trail := false
  x := 0#16
  y := 0#16
  w := 0#16
  cw := 0#16
  ch := 0#16
  off := 0#32
  info := 0#32
  phase := .init
  size := 0#4
  width := 0#4
  nent := 0#13
  full := false
  hasPrev := false
  prevCode := 0#12
  prevLen := 0#13
  prevFirst := 0#8
  cur := 0#8
  shift := 0#3
  subrem := 0#8
  table := []
  bs := []
  fb := []
  flight := Flight.rest
  ports := []
  params := Params.default
  env := []
  hostData := none
  freeCtr := 0

end Sys2Proof.Machine
end

