-- ==== Sys2Proof/Machine/Ops.lean ====
section
/-!
DEFINITION. The named operations over memory and registers that every meaning is built from: the flow of a step,
keyed storage in one canonical form, taking a fault (spec/60_exceptions.md R150) and leaving it (spec/43_host_interface.md
R142), the byte source (spec/40_framer_bitreader.md R81), the code table (spec/10_state.md R24), the frame buffer
(spec/20_memory.md R45, R46) and hardware reset (spec/70_reset_and_hazards.md R170).
-/

namespace Sys2Proof.Machine

/-- The flow of one step: it goes on with a value and a state, or it has ended with an outcome. -/
inductive Flow (α : Type) where
  | go (a : α) (s : State)
  | halt (o : Result)

/-- Go on with what follows, unless the step has ended. -/
def andThen {α β : Type} (m : Flow α) (k : α → State → Flow β) : Flow β :=
  match m with
  | .go a s => k a s
  | .halt o => .halt o

/-- The outcome of a step whose last line this was. -/
def outcomeOf (m : Flow Unit) : Result :=
  match m with
  | .go _ s => .next s
  | .halt o => o

/-! ## Keyed storage -/

/-- What is stored under a key. -/
def lookup {α : Type} (m : List (Nat × α)) (k : Nat) : Option α :=
  match m with
  | [] => none
  | (j, v) :: r => if j = k then some v else lookup r k

/-- Store under a key, the keys strictly rising. -/
def store {α : Type} (m : List (Nat × α)) (k : Nat) (v : α) : List (Nat × α) :=
  match m with
  | [] => [(k, v)]
  | (j, u) :: r =>
    if j < k then (j, u) :: store r k v
    else if j = k then (k, v) :: r
    else (k, v) :: (j, u) :: r

/-- The canonical form: keys strictly rising. (An unlisted key has no value, so no listed value can equal it.) -/
def Memory.wf {α : Type} (m : List (Nat × α)) : Bool :=
  match m with
  | [] => true
  | [_] => true
  | (j, _) :: (k, v) :: r => decide (j < k) && Memory.wf ((k, v) :: r)

/-! ## Ending a step, taking a fault, leaving it -/

/-- The code of a cause in `STATUS.CAUSE` (R151). -/
def causeCode (c : Option Cause) : BitVec 4 :=
  match c with
  | none => 0
  | some .outOfMemory => 1
  | some .badMinCodeSize => 2
  | some .prematureTerminator => 3
  | some .unexpectedEof => 4
  | some .invalidCode => 5
  | some .fbRange => 6
  | some .badGeometry => 7

/-- The end of a step: its step-local conditions are gone (R28). -/
def endStep (s : State) : State := { s with flight := Flight.rest }

/-- The state a fault leaves (R150): `STATE`, `CAUSE` and `INFO` are written, the table becomes unspecified, all
else is as the lines before the `raise` left it. -/
def faulted (c : Cause) (info : Nat) (s : State) : State :=
  { s with state := .fault, cause := some c, info := BitVec.ofNat 32 info, table := [], flight := Flight.rest }

/-- `raise F(info)` (R150): nothing the step would have done afterwards is done. -/
def raise {α : Type} (c : Cause) (info : Nat) (s : State) : Flow α := .halt (.next (faulted c info s))

/-- The end of a run at a stop code: `STATE <- DONE` (R122); the table is discarded (R109). -/
def finished (s : State) : State := { s with state := .done, table := [], flight := Flight.rest }

/-- What `START` writes (R142); also the only way, but for reset, out of `FAULT` and `DONE` (R162). -/
def started (s : State) : State :=
  { s with
    state := .busy, phase := .init, cause := none, trail := false, info := 0#32, off := 0#32, size := 0#4,
    width := 0#4, nent := 0#13, full := false, hasPrev := false, prevCode := 0#12, prevLen := 0#13,
    prevFirst := 0#8, cur := 0#8, shift := 0#3, subrem := 0#8 }

/-! ## The byte source -/

/-- The byte `b` in front of `r` is consumed: it leaves the source and is seen on its port (R5, R26). -/
def consume (b : Byte) (r : List Byte) (s : State) : State := { s with bs := r, ports := .consumed b :: s.ports }

/-- `NextByte()` (R81). -/
def nextByte (s : State) : Flow Byte :=
  match s.bs with
  | [] => raise .unexpectedEof s.off.toNat s
  | b :: r => .go b (consume b r s)

/-- `n` bytes read and dropped (R85: `repeat n times: NextByte()`). -/
def skipBytes (n : Nat) (s : State) : Flow Unit :=
  match n with
  | 0 => .go () s
  | k + 1 => andThen (nextByte s) fun _ s => skipBytes k s

/-! ## The code table -/

/-- The read of one whole entry (R48); an entry without a defined value is not read (R25, U8). -/
def readEntry (i : Nat) (s : State) : Flow Entry :=
  match lookup s.table i with
  | some e => .go e s
  | none => .halt (.refused .unspecifiedEntry)

/-- The root entries of a minimum code size (R100): `{ len: 1, prefix: NONE, suffix: k }` for `k` below `2^S`. -/
def rootEntries (size : Nat) : List (Nat × Entry) :=
  (List.range (2 ^ size)).map fun k => (k, { len := 1#13, pfx := none, suffix := BitVec.ofNat 8 k })

/-- The entries of a table below an index: those that stay defined when `NENT` is truncated (R25, R106). -/
def entriesBelow (n : Nat) (t : List (Nat × Entry)) : List (Nat × Entry) := t.filter fun e => decide (e.1 < n)

/-- The write of the `suffix` field alone (R48, R128). -/
def storeSuffix (t : List (Nat × Entry)) (i : Nat) (v : Byte) : List (Nat × Entry) :=
  match lookup t i with
  | some e => store t i { e with suffix := v }
  | none => t

/-! ## The frame buffer -/

/-- The number of bytes of the frame buffer (R27). -/
def frameBytes (s : State) : Nat := s.cw.toNat * s.ch.toNat

/-- `FbAddr(p)` (R45), in unbounded naturals, for `W >= 1`. -/
def fbAddr (s : State) (p : Nat) : Nat :=
  (s.y.toNat + p / s.w.toNat) * s.cw.toNat + s.x.toNat + p % s.w.toNat

/-- The byte `v` is written at address `a`: it stands in the frame buffer and is seen on its port (R5, R46). -/
def putByte (a : Nat) (v : Byte) (s : State) : State :=
  { s with fb := store s.fb a v, ports := .wrote a v :: s.ports }

/-- `FbWrite(FbAddr(p), v)` (R46). -/
def writePixel (p : Nat) (v : Byte) (s : State) : Flow Unit :=
  if s.w = 0#16 then .halt (.fault .zeroWidth)
  else if fbAddr s p < frameBytes s then .go () (putByte (fbAddr s p) v s)
  else raise .fbRange p s

/-- A byte of the frame buffer as the model knows it: none where the byte does not exist or where the model has
no value of it (log 4). -/
def frameByte (s : State) (a : Nat) : Option Byte := if a < frameBytes s then lookup s.fb a else none

/-! ## Hardware reset -/

/-- How many pixel numbers can have an address inside the buffer: those of the rows from `Y` down to `CH` (R45). -/
def runPixels (s : State) : Nat := (s.ch.toNat - s.y.toNat) * s.w.toNat

/-- The frame buffer with the bytes of the pixel numbers below `n` made free (U3): each byte inside the buffer
that one of these pixels has as its address. -/
def freePixels (s : State) (n : Nat) (fb : List Host.Cell) : List Host.Cell :=
  match n with
  | 0 => fb
  | p + 1 =>
    freePixels s p
      (if fbAddr s p < frameBytes s then store fb (fbAddr s p) (Config.freeByte s.freeCtr (fbAddr s p)) else fb)

/-- The frame buffer after a hardware reset (R170): a run in progress is abandoned, and every byte it could have
written holds any value (U3); the others keep theirs. -/
def frameAfterReset (s : State) : List Host.Cell :=
  if s.state = .busy then freePixels s (runPixels s) s.fb else s.fb

/-- Hardware reset (R170): R29's first column; bytes consumed stay consumed; what is not the block's stays. -/
def hardwareReset (s : State) : State :=
  { State.reset with
    bs := s.bs, fb := frameAfterReset s, ports := s.ports, params := s.params, env := s.env, hostData := s.hostData,
    freeCtr := s.freeCtr + 1 }

end Sys2Proof.Machine
end

