-- ==== Sys2Proof/Machine/Operands.lean ====
section
/-!
DEFINITION. The operand forms: the bits of a code taken from a byte (spec/20_memory.md R41, spec/40_framer_bitreader.md
R83), the operand of a literal row (spec/30_encoding.md R69), and the host's views of the registers
(spec/10_state.md R11 to R19, spec/43_host_interface.md R140).
-/

namespace Sys2Proof.Machine

/-- `take` bits of a byte from bit `shift` up (R83: `(CUR >> SHIFT) & (2^take - 1)`). -/
def bitsFrom (cur : Byte) (shift take : Nat) : Nat := (cur.toNat >>> shift) % 2 ^ take

/-- How many bits the next round of `ReadCode` takes (R83: `min(n - got, 8 - SHIFT)`). -/
def takeCount (n got shift : Nat) : Nat := min (n - got) (8 - shift)

/-- `SHIFT` after `take` more bits (R83: `(SHIFT + take) mod 8`). -/
def shiftAfter (shift : BitVec 3) (take : Nat) : BitVec 3 := BitVec.ofNat 3 ((shift.toNat + take) % 8)

/-- The code of a literal row's operand, zero-extended (R67, R69). -/
def literalCode {k : Nat} (c : BitVec k) : Code := c.setWidth 12

/-- `STATUS.STATE` (R13). -/
def stateCode (r : RunState) : BitVec 2 :=
  match r with
  | .idle => 0
  | .busy => 1
  | .done => 2
  | .fault => 3

/-- `LZWSTAT.PHASE` (R19). -/
def phaseCode (p : Phase) : BitVec 1 :=
  match p with
  | .init => 0
  | .symbol => 1

/-- `STATUS` (R13): `STATE` 1:0, `CAUSE` 7:4, `TRAIL` 8. -/
def statusWord (s : State) : Word :=
  (stateCode s.state).setWidth 32 ||| ((causeCode s.cause).setWidth 32 <<< 4) |||
    ((BitVec.ofBool s.trail).setWidth 32 <<< 8)

/-- `LZWSTAT` (R19): `WIDTH` 3:0, `FULL` 4, `HASPREV` 5, `PHASE` 6, `S` 11:8, `NENT` 28:16. -/
def lzwstatWord (s : State) : Word :=
  s.width.setWidth 32 ||| ((BitVec.ofBool s.full).setWidth 32 <<< 4) |||
    ((BitVec.ofBool s.hasPrev).setWidth 32 <<< 5) ||| ((phaseCode s.phase).setWidth 32 <<< 6) |||
    (s.size.setWidth 32 <<< 8) ||| (s.nent.setWidth 32 <<< 16)

/-- `RegRead(off)` (R140); none where no register stands (R48). -/
def regRead (off : Nat) (s : State) : Option Word :=
  match off with
  | 0x00 => some 0
  | 0x04 => some (statusWord s)
  | 0x08 => some (s.y ++ s.x)
  | 0x0C => some (s.w.setWidth 32)
  | 0x10 => some (s.ch ++ s.cw)
  | 0x14 => some s.off
  | 0x18 => some s.info
  | 0x1C => some (lzwstatWord s)
  | _ => none

end Sys2Proof.Machine
end

