-- ==== Sys2Proof/Machine/Flags.lean ====
section
/-!
DEFINITION. The one-bit conditions and what computes them (spec/10_state.md R23, R28): `FULL`, the pending width
growth, the condition of the repair (spec/41_code_table.md R102, R104, R105, spec/42_decode_loop.md R128).
-/

namespace Sys2Proof.Machine

/-- `FULL` after an insertion (R102, R105): the entry count is the cap. -/
def fullAt (nent : BitVec 13) : Bool := nent.toNat == maxEntries

/-- `grow` after an insertion (R102, R104): a power of two below the cap, the width below its ceiling. -/
def growAt (nent : BitVec 13) (width : BitVec 4) : Bool :=
  !fullAt nent && isPow2 nent.toNat && decide (width.toNat < maxWidth)

/-- A pending growth applied (R104: `if grow: WIDTH <- WIDTH + 1`). -/
def growWidth (s : State) : State := if s.flight.grow then { s with width := s.width + 1#4 } else s

/-- Whether the step repairs the newest entry (R120: `inserted and (REPAIR_ON_FILL or FULL = 0)`). -/
def repairs (s : State) : Bool := s.flight.inserted && (s.params.repairOnFill || !s.full)

end Sys2Proof.Machine
end

