-- ==== Sys2Proof/Machine/Table.lean ====
section
/-!
DEFINITION. The phases of the `SYMBOL` step that work on the code table (spec/41_code_table.md): seeding R100,
insertion R102, the clear reset R106.
-/

namespace Sys2Proof.Machine

/-- The entry an insertion writes (R102): the previous run, one pixel longer, with the placeholder suffix. -/
def newEntry (s : State) : Entry := { len := s.prevLen + 1#13, pfx := some s.prevCode, suffix := s.prevFirst }

/-- An insertion that has room (R102): the entry, the count, `FULL`, `inserted`, `grow`. -/
def insertEntry (s : State) : State :=
  { s with
    table := store s.table s.nent.toNat (newEntry s)
    nent := s.nent + 1#13
    full := fullAt (s.nent + 1#13)
    flight := { Flight.rest with inserted := true, grow := growAt (s.nent + 1#13) s.width } }

/-- `InsertPhase()` (R102); `OutOfMemory` where the table RAM has no room (R103). -/
def insertPhase (s : State) : Flow Unit :=
  if s.hasPrev = true ∧ s.full = false then
    if s.params.tableDepth ≤ s.nent.toNat then raise .outOfMemory s.nent.toNat s
    else .go () (insertEntry s)
  else .go () { s with flight := Flight.rest }

/-- The registers the seeding and the clear reset both leave for a minimum code size (R80, R106). -/
def freshRegisters (size : Nat) (s : State) : State :=
  { s with
    width := BitVec.ofNat 4 (size + 1), nent := BitVec.ofNat 13 (2 ^ size + 2), full := false, hasPrev := false }

/-- What `INIT` leaves for a legal size (R80, R100). -/
def seeded (size : Nat) (s : State) : State :=
  { freshRegisters size s with
    size := BitVec.ofNat 4 size, table := rootEntries size, phase := .symbol, flight := Flight.rest }

/-- `ClearReset()` for a minimum code size, and the end of the step (R106, R121): the entries from `2^S` up lose
their defined value; the pending growth is dropped. -/
def clearReset (size : Nat) (s : State) : State :=
  { freshRegisters size s with table := entriesBelow (2 ^ size) s.table, flight := Flight.rest }

end Sys2Proof.Machine
end

