-- ==== Sys2Proof/Machine/Framer.lean ====
section
/-!
DEFINITION. The byte tokens `MCS`, `LEN`, `DATA`, `TERM` and the operations built on them (spec/40_framer_bitreader.md):
`FetchData` R82, `ReadCode` R83, `Drain` R85. A token's meaning is what the step does once the byte is consumed.
-/

namespace Sys2Proof.Machine

/-- `MCS` (R80 after `NextByte`): the range test, then the seeding. -/
def mcsToken (b : Byte) (s : State) : Flow Unit :=
  if b.toNat < sizeMin ∨ sizeMax < b.toNat then raise .badMinCodeSize b.toNat s
  else .go () (seeded b.toNat s)

/-- `LEN` read for a code opens a sub-block (R82); `LEN` met by `Drain` is a trailing sub-block, dropped whole (R85). -/
def lenToken (n : Byte) (s : State) : Flow Unit :=
  if s.flight.draining then skipBytes n.toNat { s with trail := true }
  else .go () { s with subrem := n }

/-- `DATA` read for a code is loaded into `CUR` (R82); met by `Drain` it is dropped (R85). -/
def dataToken (d : Byte) (s : State) : Flow Unit :=
  if s.flight.draining then .go () { s with subrem := s.subrem - 1#8, trail := true }
  else .go () { s with subrem := s.subrem - 1#8, cur := d }

/-- `TERM` ends `Drain` (R85); where a code needs bits it is the fault of R82 and R154. -/
def termToken (s : State) : Flow Unit :=
  if s.flight.draining then .go () { s with shift := 0#3, flight := { s.flight with draining := false } }
  else raise .prematureTerminator s.flight.got s

/-- The meaning of `MCS`. -/
def execMcs (b : Byte) (s : State) : Result := outcomeOf (mcsToken b s)

/-- The meaning of `LEN`. -/
def execLen (n : Byte) (s : State) : Result := outcomeOf (lenToken n s)

/-- The meaning of `DATA`. -/
def execData (d : Byte) (s : State) : Result := outcomeOf (dataToken d s)

/-- The meaning of `TERM`. -/
def execTerm (s : State) : Result := outcomeOf (termToken s)

/-- The byte after a length place: `TERM` where it is 0, `LEN` otherwise (R64, R65, `decodeByte .length`). -/
def lengthToken (n : Byte) (s : State) : Flow Unit := if n = 0#8 then termToken s else lenToken n s

/-- `FetchData(got)` (R82); `got` stands in `flight`. -/
def fetchData (s : State) : Flow Unit :=
  andThen (if s.subrem = 0#8 then andThen (nextByte s) lengthToken else .go () s) fun _ s =>
    andThen (nextByte s) dataToken

/-- One round of `ReadCode`'s loop after the byte is there (R83): the code so far, and the bits taken. -/
def takeBits (n got code : Nat) (s : State) : Nat × Nat × State :=
  let take := takeCount n got s.shift.toNat
  (got + take, code ||| (bitsFrom s.cur s.shift.toNat take <<< got), { s with shift := shiftAfter s.shift take })

/-- The loop of `ReadCode` (R83). Every round takes a bit, so `fuel = n` rounds are enough. -/
def readRounds (fuel n got code : Nat) (s : State) : Flow Nat :=
  match fuel with
  | 0 => .go code s
  | f + 1 =>
    if n ≤ got then .go code s
    else
      let s := { s with flight := { s.flight with got := got } }
      andThen (if s.shift = 0#3 then fetchData s else .go () s) fun _ s =>
        let (got, code, s) := takeBits n got code s
        readRounds f n got code s

/-- `ReadCode(n)` (R83), `3 <= n <= 12`. -/
def readCode (n : Nat) (s : State) : Flow Nat :=
  if 3 ≤ n ∧ n ≤ 12 then readRounds n n 0 0 s else .halt (.fault .widthRange)

/-- The loops of `Drain` (R85). Every round consumes a byte, so as many rounds as the source has bytes are enough;
a source that ends before the terminator is the fault of R155. -/
def drainRounds (fuel : Nat) (s : State) : Flow Unit :=
  match fuel with
  | 0 => raise .unexpectedEof s.off.toNat s
  | f + 1 =>
    andThen (nextByte s) fun b s =>
      andThen (if s.subrem = 0#8 then lengthToken b s else dataToken b s) fun _ s =>
        if s.flight.draining then drainRounds f s else .go () s

/-- `Drain()` (R85). -/
def drain (s : State) : Flow Unit :=
  drainRounds s.bs.length { s with flight := { s.flight with draining := true } }

end Sys2Proof.Machine
end

