-- ==== Sys2Proof/Machine/Codes.lean ====
section
/-!
DEFINITION. The six code classes and their per-size rows (spec/42_decode_loop.md R120 to R129). A code's meaning is
what the `SYMBOL` step does once the insertion phase and the fetch have been done and the class is known.
-/

namespace Sys2Proof.Machine

/-- The most entries a chain can have (R24, R107): the fuel of a walk. -/
def walkFuel : Nat := 4096

/-- The loop of `Emit` (R127), from an entry back to its root; answers the first pixel of the run. -/
def walk (fuel : Nat) (e : Entry) (s : State) : Flow Byte :=
  match fuel with
  | 0 => .halt (.fault .cyclicChain)
  | f + 1 =>
    if e.len = 0#13 then .halt (.fault .emptyRun)
    else
      andThen (writePixel (s.off.toNat + e.len.toNat - 1) e.suffix s) fun _ s =>
        match e.pfx with
        | none => .go e.suffix s
        | some j => andThen (readEntry j.toNat s) fun e' s => walk f e' s

/-- `Emit(c)` (R127): the run's length and its first pixel. -/
def emit (c : Code) (s : State) : Flow (BitVec 13 × Byte) :=
  andThen (readEntry c.toNat s) fun e s => andThen (walk walkFuel e s) fun first s => .go (e.len, first) s

/-- The repair (R128). -/
def repair (first : Byte) (s : State) : State :=
  if repairs s then { s with table := storeSuffix s.table (s.nent.toNat - 1) first } else s

/-- The previous-code registers (R129) and the end of the step. -/
def remember (c : Code) (len : BitVec 13) (first : Byte) (s : State) : State :=
  { s with hasPrev := true, prevCode := c, prevLen := len, prevFirst := first, flight := Flight.rest }

/-- `OFF <- OFF + len` (R120, R127). -/
def advance (len : BitVec 13) (s : State) : State := { s with off := s.off + len.setWidth 32 }

/-- The tail of the `SYMBOL` step for a data code (R120): the pending growth, the emission, the repair, the
previous-code registers. -/
def dataCode (c : Code) (s : State) : Result :=
  outcomeOf (andThen (emit c (growWidth s)) fun r s =>
    .go () (remember c r.1 r.2 (repair r.2 (advance r.1 s))))

/-- The stop arm of the `SYMBOL` step (R122): `Drain()`, then `STATE <- DONE`. -/
def stopCode (s : State) : Result := outcomeOf (andThen (drain s) fun _ s => .go () (finished s))

/-- The clear arm of the `SYMBOL` step (R121). -/
def clearCode (size : Nat) (s : State) : Result := .next (clearReset size s)

/-- The meaning of `CLR` (R121): the size is the register `S`. -/
def execClr (s : State) : Result := clearCode s.size.toNat s

/-- The meaning of `STOP` (R122). -/
def execStop (s : State) : Result := stopCode s

/-- The meaning of `INV` (R126, R158): the pending growth is applied, then the fault is raised. -/
def execInv (c : Code) (s : State) : Result := outcomeOf (raise .invalidCode c.toNat (growWidth s))

/-- The meaning of `LIT` (R123). -/
def execLit (c : Code) (s : State) : Result := dataCode c s

/-- The meaning of `KWK` (R125). -/
def execKwk (c : Code) (s : State) : Result := dataCode c s

/-- The meaning of `REF` (R124). -/
def execRef (c : Code) (s : State) : Result := dataCode c s

/-- The meaning of `CLR_S2` (R121), with the constants of R69 for `S = 2`. -/
def execClrS2 (s : State) : Result := clearCode 2 s

/-- The meaning of `CLR_S3` (R121), with the constants of R69 for `S = 3`. -/
def execClrS3 (s : State) : Result := clearCode 3 s

/-- The meaning of `CLR_S4` (R121), with the constants of R69 for `S = 4`. -/
def execClrS4 (s : State) : Result := clearCode 4 s

/-- The meaning of `CLR_S5` (R121), with the constants of R69 for `S = 5`. -/
def execClrS5 (s : State) : Result := clearCode 5 s

/-- The meaning of `CLR_S6` (R121), with the constants of R69 for `S = 6`. -/
def execClrS6 (s : State) : Result := clearCode 6 s

/-- The meaning of `CLR_S7` (R121), with the constants of R69 for `S = 7`. -/
def execClrS7 (s : State) : Result := clearCode 7 s

/-- The meaning of `CLR_S8` (R121), with the constants of R69 for `S = 8`. -/
def execClrS8 (s : State) : Result := clearCode 8 s

/-- The meaning of `STOP_S2` (R122). -/
def execStopS2 (s : State) : Result := stopCode s

/-- The meaning of `STOP_S3` (R122). -/
def execStopS3 (s : State) : Result := stopCode s

/-- The meaning of `STOP_S4` (R122). -/
def execStopS4 (s : State) : Result := stopCode s

/-- The meaning of `STOP_S5` (R122). -/
def execStopS5 (s : State) : Result := stopCode s

/-- The meaning of `STOP_S6` (R122). -/
def execStopS6 (s : State) : Result := stopCode s

/-- The meaning of `STOP_S7` (R122). -/
def execStopS7 (s : State) : Result := stopCode s

/-- The meaning of `STOP_S8` (R122). -/
def execStopS8 (s : State) : Result := stopCode s

/-- The meaning of `LIT_S2` (R123). -/
def execLitS2 (c : BitVec 2) (s : State) : Result := dataCode (literalCode c) s

/-- The meaning of `LIT_S3` (R123). -/
def execLitS3 (c : BitVec 3) (s : State) : Result := dataCode (literalCode c) s

/-- The meaning of `LIT_S4` (R123). -/
def execLitS4 (c : BitVec 4) (s : State) : Result := dataCode (literalCode c) s

/-- The meaning of `LIT_S5` (R123). -/
def execLitS5 (c : BitVec 5) (s : State) : Result := dataCode (literalCode c) s

/-- The meaning of `LIT_S6` (R123). -/
def execLitS6 (c : BitVec 6) (s : State) : Result := dataCode (literalCode c) s

/-- The meaning of `LIT_S7` (R123). -/
def execLitS7 (c : BitVec 7) (s : State) : Result := dataCode (literalCode c) s

/-- The meaning of `LIT_S8` (R123). -/
def execLitS8 (c : BitVec 8) (s : State) : Result := dataCode (literalCode c) s

end Sys2Proof.Machine
end

