-- ==== Sys2Proof/Machine/HostPort.lean ====
section
/-!
DEFINITION. The host commands (spec/43_host_interface.md R141, R142) and the events of the environment that are no
instruction: a register read R140, hardware reset (spec/70_reset_and_hazards.md R170), placing the byte source R172,
writing the frame buffer R174.
-/

namespace Sys2Proof.Machine

/-- A command that is ignored while `BUSY` (R141, R142). -/
def unlessBusy (f : State → State) (s : State) : Result := .next (if s.state = .busy then s else f s)

/-- The meaning of `SET_ORIGIN` (R141). -/
def execSetOrigin (x y : BitVec 16) (s : State) : Result := unlessBusy (fun s => { s with x := x, y := y }) s

/-- The meaning of `SET_SUBW` (R141). -/
def execSetSubw (w : BitVec 16) (s : State) : Result := unlessBusy (fun s => { s with w := w }) s

/-- The meaning of `SET_CANVAS` (R141). -/
def execSetCanvas (cw ch : BitVec 16) (s : State) : Result := unlessBusy (fun s => { s with cw := cw, ch := ch }) s

/-- The meaning of `START` (R142). -/
def execStart (s : State) : Result := unlessBusy started s

/-- A register read (R140): no register changes; the word stands in `hostData` (log 13). -/
def hostRead (bits off : Nat) (s : State) : Result :=
  match if bits = 32 then regRead off s else none with
  | some v => .next { s with hostData := some v }
  | none => .refused .registerAccess

/-- The environment places the byte source (R172 c), not while `BUSY` (R173). -/
def placeSource (bytes : List Byte) (s : State) : Result :=
  if s.state = .busy then .refused .sourceInUse else .next { s with bs := bytes }

/-- The environment writes a byte of the frame buffer (R174), not while `BUSY` (R56, R173). -/
def placeFrameByte (a : Nat) (v : Byte) (s : State) : Result :=
  if s.state = .busy then .refused .frameInUse
  else if a < frameBytes s then .next { s with fb := store s.fb a v }
  else .fault .noSuchFrameByte

end Sys2Proof.Machine
end

