-- ==== Sys2Proof/Syntax.lean ====
section
/-!
DEFINITION. The instructions: one constructor per row of spec/opcode_table.json. Byte tokens (spec/30_encoding.md
R60 to R65), LZW codes (R66 to R68), the per-size rows of the codes (R69, R76), host commands (R73).
-/

namespace Sys2Proof

/-- One constructor per row of the opcode table. -/
inductive Instr where
  /-- `MCS`: the minimum-code-size byte (R62). -/
  | mcs (b : Byte)
  /-- `LEN`: a sub-block length byte, 1..255 (R63). -/
  | len (n : Byte)
  /-- `DATA`: a data byte (R63). -/
  | data (d : Byte)
  /-- `TERM`: the zero-length terminator (R64). -/
  | term
  /-- `CLR`: the clear code `2^S` (R68 row 1). -/
  | clr
  /-- `STOP`: the stop code `2^S + 1` (R68 row 2). -/
  | stop
  /-- `INV`: a code at or above the entry count (R68 row 3). -/
  | inv (c : Code)
  /-- `LIT`: a literal code, `c < 2^S` (R68 row 4). -/
  | lit (c : Code)
  /-- `KWK`: the code of the entry inserted in the same step (R68 row 5). -/
  | kwk (c : Code)
  /-- `REF`: the code of a completed inserted entry (R68 row 6). -/
  | ref (c : Code)
  /-- `CLR_S2`: the clear code of `S = 2`, value 4 (R69). -/
  | clrS2
  /-- `CLR_S3`: the clear code of `S = 3`, value 8 (R69). -/
  | clrS3
  /-- `CLR_S4`: the clear code of `S = 4`, value 16 (R69). -/
  | clrS4
  /-- `CLR_S5`: the clear code of `S = 5`, value 32 (R69). -/
  | clrS5
  /-- `CLR_S6`: the clear code of `S = 6`, value 64 (R69). -/
  | clrS6
  /-- `CLR_S7`: the clear code of `S = 7`, value 128 (R69). -/
  | clrS7
  /-- `CLR_S8`: the clear code of `S = 8`, value 256 (R69). -/
  | clrS8
  /-- `STOP_S2`: the stop code of `S = 2`, value 5 (R69). -/
  | stopS2
  /-- `STOP_S3`: the stop code of `S = 3`, value 9 (R69). -/
  | stopS3
  /-- `STOP_S4`: the stop code of `S = 4`, value 17 (R69). -/
  | stopS4
  /-- `STOP_S5`: the stop code of `S = 5`, value 33 (R69). -/
  | stopS5
  /-- `STOP_S6`: the stop code of `S = 6`, value 65 (R69). -/
  | stopS6
  /-- `STOP_S7`: the stop code of `S = 7`, value 129 (R69). -/
  | stopS7
  /-- `STOP_S8`: the stop code of `S = 8`, value 257 (R69). -/
  | stopS8
  /-- `LIT_S2`: a literal code of `S = 2`, bits 1:0 (R69). -/
  | litS2 (c : BitVec 2)
  /-- `LIT_S3`: a literal code of `S = 3`, bits 2:0 (R69). -/
  | litS3 (c : BitVec 3)
  /-- `LIT_S4`: a literal code of `S = 4`, bits 3:0 (R69). -/
  | litS4 (c : BitVec 4)
  /-- `LIT_S5`: a literal code of `S = 5`, bits 4:0 (R69). -/
  | litS5 (c : BitVec 5)
  /-- `LIT_S6`: a literal code of `S = 6`, bits 5:0 (R69). -/
  | litS6 (c : BitVec 6)
  /-- `LIT_S7`: a literal code of `S = 7`, bits 6:0 (R69). -/
  | litS7 (c : BitVec 7)
  /-- `LIT_S8`: a literal code of `S = 8`, bits 7:0 (R69). -/
  | litS8 (c : BitVec 8)
  /-- `SET_ORIGIN`: the write of `ORIGIN` (R73). -/
  | setOrigin (x y : BitVec 16)
  /-- `SET_SUBW`: the write of `SUBW`; bits 31:16 of the word are no operand (R73, R141). -/
  | setSubw (w : BitVec 16)
  /-- `SET_CANVAS`: the write of `CANVAS` (R73). -/
  | setCanvas (cw ch : BitVec 16)
  /-- `START`: the write of `CTRL` with bit 0 set; bits 31:1 are no operand (R73, R142). -/
  | start
  deriving DecidableEq, Repr

end Sys2Proof
end

