-- ==== Sys2Proof/Machine/Dispatch.lean ====
section
/-!
DEFINITION. One arm per constructor of `Instr`, each a direct call of its meaning.
-/

namespace Sys2Proof.Machine

def exec (i : Instr) (s : State) : Host.Outcome State Fault Refusal :=
  match i with
  | .mcs b => Sys2Proof.Machine.execMcs b s
  | .len n => Sys2Proof.Machine.execLen n s
  | .data d => Sys2Proof.Machine.execData d s
  | .term => Sys2Proof.Machine.execTerm s
  | .clr => Sys2Proof.Machine.execClr s
  | .stop => Sys2Proof.Machine.execStop s
  | .inv c => Sys2Proof.Machine.execInv c s
  | .lit c => Sys2Proof.Machine.execLit c s
  | .kwk c => Sys2Proof.Machine.execKwk c s
  | .ref c => Sys2Proof.Machine.execRef c s
  | .clrS2 => Sys2Proof.Machine.execClrS2 s
  | .clrS3 => Sys2Proof.Machine.execClrS3 s
  | .clrS4 => Sys2Proof.Machine.execClrS4 s
  | .clrS5 => Sys2Proof.Machine.execClrS5 s
  | .clrS6 => Sys2Proof.Machine.execClrS6 s
  | .clrS7 => Sys2Proof.Machine.execClrS7 s
  | .clrS8 => Sys2Proof.Machine.execClrS8 s
  | .stopS2 => Sys2Proof.Machine.execStopS2 s
  | .stopS3 => Sys2Proof.Machine.execStopS3 s
  | .stopS4 => Sys2Proof.Machine.execStopS4 s
  | .stopS5 => Sys2Proof.Machine.execStopS5 s
  | .stopS6 => Sys2Proof.Machine.execStopS6 s
  | .stopS7 => Sys2Proof.Machine.execStopS7 s
  | .stopS8 => Sys2Proof.Machine.execStopS8 s
  | .litS2 c => Sys2Proof.Machine.execLitS2 c s
  | .litS3 c => Sys2Proof.Machine.execLitS3 c s
  | .litS4 c => Sys2Proof.Machine.execLitS4 c s
  | .litS5 c => Sys2Proof.Machine.execLitS5 c s
  | .litS6 c => Sys2Proof.Machine.execLitS6 c s
  | .litS7 c => Sys2Proof.Machine.execLitS7 c s
  | .litS8 c => Sys2Proof.Machine.execLitS8 c s
  | .setOrigin x y => Sys2Proof.Machine.execSetOrigin x y s
  | .setSubw w => Sys2Proof.Machine.execSetSubw w s
  | .setCanvas cw ch => Sys2Proof.Machine.execSetCanvas cw ch s
  | .start => Sys2Proof.Machine.execStart s

end Sys2Proof.Machine
end

