-- ==== Sys2Proof/WellFormed.lean ====
section
/-!
DEFINITION. Which terms of `Instr` are instructions (spec/30_encoding.md R62 to R64, R68, R69), and in which place
of the byte stream, of the code stream or of the register map each of them can stand (R65, R68, R73).
-/

namespace Sys2Proof

/-- The place of a byte in the framing (R65). -/
inductive ByteUse where
  /-- The first byte after `START`. -/
  | first
  /-- A byte fetched where a length is expected (`SUBREM = 0`). -/
  | length
  /-- A byte fetched while `SUBREM > 0`. -/
  | data
  deriving DecidableEq, Repr

/-- What the bits of an instruction are read against: the framer's state for a byte (R65), the decoder's
registers after the insertion phase for a code (R68), the register's offset for a host write (R73). -/
inductive Context where
  | byte (use : ByteUse)
  | code (size nent : Nat) (inserted : Bool) (width : Nat)
  | hostWrite (off : Nat)
  deriving DecidableEq, Repr

/-- Why bits are no instruction. -/
inductive Reject where
  /-- The word has bits above the unit of its format (R76). -/
  | tooWide
  /-- A host write that has no effect (R143). -/
  | ignoredWrite
  /-- No register stands at the offset (R48). -/
  | noRegister
  deriving DecidableEq, Repr

/-- The checks on an instruction alone: a length byte is not 0 (R63); a literal is below `2^8` (R69: the largest
`S` is 8); a reference, a self-reference and an invalid code are at least 6 (R69: the least entry count). -/
def Instr.wf (i : Instr) : Bool :=
  match i with
  | .mcs _ | .data _ | .term | .clr | .stop => true
  | .len n => n != 0#8
  | .lit c => decide (c.toNat < 256)
  | .inv c | .kwk c | .ref c => decide (6 ≤ c.toNat)
  | .clrS2 | .clrS3 | .clrS4 | .clrS5 | .clrS6 | .clrS7 | .clrS8 => true
  | .stopS2 | .stopS3 | .stopS4 | .stopS5 | .stopS6 | .stopS7 | .stopS8 => true
  | .litS2 _ | .litS3 _ | .litS4 _ | .litS5 _ | .litS6 _ | .litS7 _ | .litS8 _ => true
  | .setOrigin _ _ | .setSubw _ | .setCanvas _ _ | .start => true

/-- A code context whose size has no row of its own: the generic rows are read there (log 9). -/
def Context.genericCode (ctx : Context) : Bool :=
  match ctx with
  | .code size _ _ _ => decide (size < 2 ∨ 8 < size)
  | _ => false

/-- Whether a code of value `v` fits the width of a code context (R66: 3 to 12 bits, `0 <= c < 2^n`). -/
def Context.holds (ctx : Context) (v : Nat) : Bool :=
  match ctx with
  | .code _ _ _ width => decide (width ≤ 12 ∧ v < 2 ^ width)
  | _ => false

/-- The minimum code size of a code context; 0 in the other contexts, which have none. -/
def Context.size (ctx : Context) : Nat :=
  match ctx with
  | .code size _ _ _ => size
  | _ => 0

/-- The unit of a context's rows in bits (R76): a byte, a code zero-extended to 12 bits, a register word. -/
def Context.unitBits (ctx : Context) : Nat :=
  match ctx with
  | .byte _ => 8
  | .code _ _ _ _ => 12
  | .hostWrite _ => 32

/-- The entry count of a code context; 0 in the other contexts, which have none. -/
def Context.nent (ctx : Context) : Nat :=
  match ctx with
  | .code _ nent _ _ => nent
  | _ => 0

/-- Whether the code's own step inserted an entry. -/
def Context.inserted (ctx : Context) : Bool :=
  match ctx with
  | .code _ _ ins _ => ins
  | _ => false

/-- A code value that is neither the clear nor the stop code of the context's size (R68 tests 1 and 2). -/
def Context.notControl (ctx : Context) (v : Nat) : Bool :=
  decide (v ≠ 2 ^ ctx.size ∧ v ≠ 2 ^ ctx.size + 1)

/-- Whether an instruction can stand in a context: the condition of its row of the opcode table. -/
def Instr.fits (ctx : Context) (i : Instr) : Bool :=
  match i with
  | .mcs _ => decide (ctx = .byte .first)
  | .len n => decide (ctx = .byte .length ∧ n ≠ 0#8)
  | .data _ => decide (ctx = .byte .data)
  | .term => decide (ctx = .byte .length)
  | .clr => ctx.genericCode && ctx.holds (2 ^ ctx.size)
  | .stop => ctx.genericCode && ctx.holds (2 ^ ctx.size + 1)
  | .inv c => ctx.holds c.toNat && ctx.notControl c.toNat && decide (ctx.nent ≤ c.toNat)
  | .lit c => ctx.genericCode && ctx.holds c.toNat && decide (c.toNat < 2 ^ ctx.size ∧ c.toNat < ctx.nent)
  | .kwk c => ctx.holds c.toNat && ctx.notControl c.toNat && ctx.inserted &&
      decide (2 ^ ctx.size ≤ c.toNat ∧ c.toNat + 1 = ctx.nent)
  | .ref c => ctx.holds c.toNat && ctx.notControl c.toNat &&
      decide (2 ^ ctx.size ≤ c.toNat ∧ c.toNat < ctx.nent ∧ ¬(ctx.inserted = true ∧ c.toNat + 1 = ctx.nent))
  | .clrS2 => decide (ctx.size = 2) && ctx.holds 4
  | .clrS3 => decide (ctx.size = 3) && ctx.holds 8
  | .clrS4 => decide (ctx.size = 4) && ctx.holds 16
  | .clrS5 => decide (ctx.size = 5) && ctx.holds 32
  | .clrS6 => decide (ctx.size = 6) && ctx.holds 64
  | .clrS7 => decide (ctx.size = 7) && ctx.holds 128
  | .clrS8 => decide (ctx.size = 8) && ctx.holds 256
  | .stopS2 => decide (ctx.size = 2) && ctx.holds 5
  | .stopS3 => decide (ctx.size = 3) && ctx.holds 9
  | .stopS4 => decide (ctx.size = 4) && ctx.holds 17
  | .stopS5 => decide (ctx.size = 5) && ctx.holds 33
  | .stopS6 => decide (ctx.size = 6) && ctx.holds 65
  | .stopS7 => decide (ctx.size = 7) && ctx.holds 129
  | .stopS8 => decide (ctx.size = 8) && ctx.holds 257
  | .litS2 c => decide (ctx.size = 2) && ctx.holds c.toNat && decide (c.toNat < ctx.nent)
  | .litS3 c => decide (ctx.size = 3) && ctx.holds c.toNat && decide (c.toNat < ctx.nent)
  | .litS4 c => decide (ctx.size = 4) && ctx.holds c.toNat && decide (c.toNat < ctx.nent)
  | .litS5 c => decide (ctx.size = 5) && ctx.holds c.toNat && decide (c.toNat < ctx.nent)
  | .litS6 c => decide (ctx.size = 6) && ctx.holds c.toNat && decide (c.toNat < ctx.nent)
  | .litS7 c => decide (ctx.size = 7) && ctx.holds c.toNat && decide (c.toNat < ctx.nent)
  | .litS8 c => decide (ctx.size = 8) && ctx.holds c.toNat && decide (c.toNat < ctx.nent)
  | .setOrigin _ _ => decide (ctx = .hostWrite 0x08)
  | .setSubw _ => decide (ctx = .hostWrite 0x0C)
  | .setCanvas _ _ => decide (ctx = .hostWrite 0x10)
  | .start => decide (ctx = .hostWrite 0x00)

end Sys2Proof
end

