-- ==== Sys2Proof/Decode.lean ====
section
/-!
DEFINITION. The decoder: from the bits of a byte, a code or a host write, and what the block's own state says of
their place (spec/30_encoding.md R65, R67, R68, R73), to an instruction or a rejection by name; then the encoder,
written from the same tables; then the two readings that the opcode table's own numbering of bits asks for.
-/

namespace Sys2Proof

/-- A byte token (R65): the byte's value never decides which token it is; only in the place of a length does
the value 0 mean `TERM` (R64). -/
def decodeByte (use : ByteUse) (b : Byte) : Instr :=
  match use with
  | .first => .mcs b
  | .length => if b = 0#8 then .term else .len b
  | .data => .data b

/-- The row of the clear code for a minimum code size (R69; log 9: the per-size row where the table has one). -/
def clearRow (size : Nat) : Instr :=
  match size with
  | 2 => .clrS2
  | 3 => .clrS3
  | 4 => .clrS4
  | 5 => .clrS5
  | 6 => .clrS6
  | 7 => .clrS7
  | 8 => .clrS8
  | _ => .clr

/-- The row of the stop code for a minimum code size (R69; log 9). -/
def stopRow (size : Nat) : Instr :=
  match size with
  | 2 => .stopS2
  | 3 => .stopS3
  | 4 => .stopS4
  | 5 => .stopS5
  | 6 => .stopS6
  | 7 => .stopS7
  | 8 => .stopS8
  | _ => .stop

/-- The row of a literal code for a minimum code size (R69; log 9). -/
def literalRow (size : Nat) (c : Code) : Instr :=
  match size with
  | 2 => .litS2 (c.setWidth 2)
  | 3 => .litS3 (c.setWidth 3)
  | 4 => .litS4 (c.setWidth 4)
  | 5 => .litS5 (c.setWidth 5)
  | 6 => .litS6 (c.setWidth 6)
  | 7 => .litS7 (c.setWidth 7)
  | 8 => .litS8 (c.setWidth 8)
  | _ => .lit c

/-- The class of a code: the six tests of R68 in their order, `nent` and `inserted` being those after the
insertion phase of the step. -/
def classify (size nent : Nat) (inserted : Bool) (c : Code) : Instr :=
  if c.toNat = 2 ^ size then clearRow size
  else if c.toNat = 2 ^ size + 1 then stopRow size
  else if nent ≤ c.toNat then .inv c
  else if c.toNat < 2 ^ size then literalRow size c
  else if inserted = true ∧ c.toNat + 1 = nent then .kwk c
  else .ref c

/-- The host command a word write is (R73), or why it is none: the write is ignored (R143), or there is no such
register (R48). -/
def decodeHostWrite (off : Nat) (v : Word) : Except Reject Instr :=
  match off with
  | 0x00 => if v.getLsbD 0 then .ok .start else .error .ignoredWrite
  | 0x04 => .error .ignoredWrite
  | 0x08 => .ok (.setOrigin (v.extractLsb' 0 16) (v.extractLsb' 16 16))
  | 0x0C => .ok (.setSubw (v.extractLsb' 0 16))
  | 0x10 => .ok (.setCanvas (v.extractLsb' 0 16) (v.extractLsb' 16 16))
  | 0x14 => .error .ignoredWrite
  | 0x18 => .error .ignoredWrite
  | 0x1C => .error .ignoredWrite
  | _ => .error .noRegister

/-- The decoder, total on every context and every word. -/
def decode (ctx : Context) (w : Word) : Except Reject Instr :=
  match ctx with
  | .byte use => if w.toNat < 2 ^ 8 then .ok (decodeByte use (w.setWidth 8)) else .error .tooWide
  | .code size nent inserted width =>
    if width ≤ 12 ∧ w.toNat < 2 ^ width then .ok (classify size nent inserted (w.setWidth 12))
    else .error .tooWide
  | .hostWrite off => decodeHostWrite off w

/-- The encoder: the bits of an instruction, in the unit of its row (R76), zero-extended; `size` is the minimum
code size, which the generic clear and stop rows need (R62). The bits a row ignores are 0. -/
def encode (size : Nat) (i : Instr) : Word :=
  match i with
  | .mcs b => b.setWidth 32
  | .len n => n.setWidth 32
  | .data d => d.setWidth 32
  | .term => 0
  | .clr => BitVec.ofNat 32 (2 ^ size)
  | .stop => BitVec.ofNat 32 (2 ^ size + 1)
  | .inv c => c.setWidth 32
  | .lit c => c.setWidth 32
  | .kwk c => c.setWidth 32
  | .ref c => c.setWidth 32
  | .clrS2 => 4
  | .clrS3 => 8
  | .clrS4 => 16
  | .clrS5 => 32
  | .clrS6 => 64
  | .clrS7 => 128
  | .clrS8 => 256
  | .stopS2 => 5
  | .stopS3 => 9
  | .stopS4 => 17
  | .stopS5 => 33
  | .stopS6 => 65
  | .stopS7 => 129
  | .stopS8 => 257
  | .litS2 c => c.setWidth 32
  | .litS3 c => c.setWidth 32
  | .litS4 c => c.setWidth 32
  | .litS5 c => c.setWidth 32
  | .litS6 c => c.setWidth 32
  | .litS7 c => c.setWidth 32
  | .litS8 c => c.setWidth 32
  | .setOrigin x y => y ++ x
  | .setSubw w => w.setWidth 32
  | .setCanvas cw ch => ch ++ cw
  | .start => 1

/-- The minimum code size a code written in the table's 12-bit form is read for, its row saying no size of its
own (log 10): the least size of which it is the clear code, the stop code or a literal; 8 for the others. -/
def tableSize (w : Nat) : Nat :=
  if w < 6 then 2 else if w < 10 then 3 else if w < 18 then 4 else if w < 34 then 5
  else if w < 66 then 6 else if w < 130 then 7 else 8

/-- The instruction of bits `w`, numbered as the opcode table numbers them, `nbits` being the row's bits in whole
bytes. The table's rows of one length share their words and differ by the framer's state or by a register offset
that is no bit of the word; log 10 says which row is read.
Bytes: 0 is `TERM`, 1 the `START` word, 2..8 `MCS`, the rest `LEN`. Two bytes: a code, the first of an image of
the size that `tableSize` gives. Four bytes: 1 is `START`, any other word `SET_ORIGIN`. -/
def decodeTableWord (nbits w : Nat) : Option Instr :=
  let word := BitVec.ofNat 32 w
  let read (ctx : Context) : Option Instr := (decode ctx word).toOption
  if nbits = 8 then
    if w = 0 then read (.byte .length)
    else if w = 1 then read (.hostWrite 0x00)
    else if w ≤ 8 then read (.byte .first)
    else read (.byte .length)
  else if nbits = 16 then
    read (.code (tableSize w) (2 ^ tableSize w + 2) false (tableSize w + 1))
  else if nbits = 32 then
    if w = 1 then read (.hostWrite 0x00) else read (.hostWrite 0x08)
  else none

end Sys2Proof
end

