-- ==== Sys2Proof/Machine/Fetch.lean ====
section
/-!
DEFINITION. What a step runs: whose turn it is (log 1), the lines of `INIT` and `SYMBOL` that stand before the
instruction (spec/40_framer_bitreader.md R80, spec/42_decode_loop.md R120), the instruction the decoder reads there;
and how an instruction of the opcode table is put where the next step fetches it (logs 10, 11).
-/

namespace Sys2Proof.Machine

/-- What a step comes to: an instruction to run in a state, or an outcome without one. -/
inductive Fetched where
  | run (i : Instr) (s : State)
  | ended (o : Result)

/-- An instruction found by a flow that may have ended the step. -/
def fetchedOf (m : Flow Instr) : Fetched :=
  match m with
  | .go i s => .run i s
  | .halt o => .ended o

/-- `INIT` up to the byte (R80): the test of `W`, then the `MCS` byte. -/
def fetchInit (s : State) : Flow Instr :=
  if s.w = 0#16 then raise .badGeometry 0 s
  else andThen (nextByte s) fun b s => .go (decodeByte .first b) s

/-- The instruction a fetched code is, in the state after the fetch (R68). -/
def codeInstr (c : Nat) (s : State) : Instr :=
  classify s.size.toNat s.nent.toNat s.flight.inserted (BitVec.ofNat 12 c)

/-- `SYMBOL` up to the class (R120): insertion, fetch, class. -/
def fetchSymbol (s : State) : Flow Instr :=
  andThen (insertPhase s) fun _ s =>
    andThen (readCode s.width.toNat s) fun c s => .go (codeInstr c s) s

/-- The block's turn (R5, R131): `INIT` or `SYMBOL` while `BUSY`; otherwise no step is enabled and nothing changes
(log 15). -/
def fetchBlock (s : State) : Fetched :=
  if s.state = .busy then
    match s.phase with
    | .init => fetchedOf (fetchInit s)
    | .symbol => fetchedOf (fetchSymbol s)
  else .ended (.next s)

/-- A host write (R48, R73, R143). -/
def fetchWrite (bits off : Nat) (v : Word) (s : State) : Fetched :=
  if bits = 32 then
    match decodeHostWrite off v with
    | .ok i => .run i s
    | .error .noRegister => .ended (.refused .registerAccess)
    | .error .ignoredWrite => .ended (.next s)
    | .error .tooWide => .ended (.refused .registerAccess)
  else .ended (.refused .registerAccess)

/-- An event of the environment, or the block's turn. -/
def fetchEvent (e : EnvEvent) (s : State) : Fetched :=
  match e with
  | .tick => fetchBlock s
  | .write bits off v => fetchWrite bits off v s
  | .read bits off => .ended (hostRead bits off s)
  | .reset => .ended (.next (hardwareReset s))
  | .source bytes => .ended (placeSource bytes s)
  | .frame a v => .ended (placeFrameByte a v s)

/-- What the next step runs: the first event of the script, or the block's turn when the script is empty. -/
def fetch (s : State) : Fetched :=
  match s.env with
  | [] => fetchBlock s
  | e :: r => fetchEvent e { s with env := r }

/-! ## Placing an instruction of the opcode table -/

/-- A run just started, with a sub-image width that `INIT` accepts (log 11). -/
def runStarted (s : State) : State :=
  let t := started { s with env := [] }
  { t with w := if s.w = 0#16 then 1#16 else s.w }

/-- A run of minimum code size `size` after `INIT`, in front of the given bytes (log 11). -/
def runSeeded (size : Nat) (bytes : List Byte) (s : State) : State :=
  { seeded size (runStarted s) with bs := bytes }

/-- The bytes of one sub-block that holds a code of value `v` and width at most 16, and the terminator (R61, R66). -/
def codeBytes (v : Word) : List Byte := [2, v.extractLsb' 0 8, v.extractLsb' 8 8, 0]

/-- A host write as the next event (log 11). -/
def hostWriteNext (off : Nat) (v : Word) (s : State) : State := { s with env := [.write 32 off v] }

/-- `s` with an instruction of bits `w` placed where the next step fetches it (logs 10, 11). A length byte is
followed by its data bytes, all 0. The terminator stands behind a stop code whose bits are all in `CUR`, the only
place where it is legal (R64). -/
def placeInstr (i : Instr) (nbits w : Nat) (s : State) : State :=
  let word := BitVec.ofNat 32 w
  match i with
  | .mcs b => { runStarted s with bs := b :: s.bs }
  | .len n => runSeeded 2 (n :: List.replicate n.toNat 0) s
  | .data d => { runSeeded 2 [d] s with subrem := 1#8 }
  | .term => { runSeeded 2 [0] s with cur := 0xA0, shift := 5 }
  | .setOrigin _ _ => hostWriteNext 0x08 word s
  | .setSubw _ => hostWriteNext 0x0C word s
  | .setCanvas _ _ => hostWriteNext 0x10 word s
  | .start => hostWriteNext 0x00 word s
  | _ => if nbits = 16 then runSeeded (tableSize w) (codeBytes word) s else s

end Sys2Proof.Machine
end

