-- ==== Sys2Proof/Machine/Step.lean ====
section
/-!
DEFINITION. One step of the machine (spec/00_scope.md R5): what stands before the instruction, then the instruction.
-/

namespace Sys2Proof.Machine

/-- What was fetched, run. -/
def runFetched (f : Fetched) : Result :=
  match f with
  | .run i t => exec i t
  | .ended o => o

/-- One step: `INIT`, `SYMBOL` or an event of the environment. -/
def step (s : State) : Host.Outcome State Fault Refusal := runFetched (fetch s)

/-- `s` with the instruction of bits `w` where the next step fetches it (logs 10, 11). -/
def State.withFetchWord (s : State) (nbits w : Nat) : State :=
  match decodeTableWord nbits w with
  | some i => placeInstr i nbits w s
  | none => s

end Sys2Proof.Machine
end

