-- ==== Sys2Proof/Safety.lean ====
section
/-!
DEFINITION. The terms that claims are stated in: the run of an entry (spec/41_code_table.md R101), the code stream
behind the framing (spec/20_memory.md R41), where the image data end (spec/40_framer_bitreader.md R85), the pixels a
run paints (spec/42_decode_loop.md R127), and the invariant of a decode (spec/10_state.md R29, R30).
-/

namespace Sys2Proof.Machine

/-! ## Runs -/

/-- `str(i)` (R101), if within `fuel` entries the chain of `i` reaches a root through entries with a defined value,
each of the length R101 gives it. -/
def runOf (t : List (Nat × Entry)) (fuel i : Nat) : Option (List Byte) :=
  match fuel with
  | 0 => none
  | f + 1 =>
    match lookup t i with
    | none => none
    | some e =>
      match (match e.pfx with
        | none => some []
        | some j => runOf t f j.toNat) with
      | none => none
      | some r => if e.len.toNat = r.length + 1 then some (r ++ [e.suffix]) else none

/-- The writes of a run whose first pixel has number `p`, the newest first: the highest pixel number is written first
(R127). -/
def runWrites (s : State) (p : Nat) (run : List Byte) : List Host.Cell :=
  match run with
  | [] => []
  | v :: r => (fbAddr s p, v) :: runWrites s (p + 1) r

/-- The frame buffer after some writes, given the newest first. -/
def applyWrites (ws : List Host.Cell) (fb : List Host.Cell) : List Host.Cell :=
  match ws with
  | [] => fb
  | (a, v) :: r => store (applyWrites r fb) a v

/-- The frame buffer after the pixels from number `p` on have taken the values of a run, the highest pixel number
first (R127). -/
def paint (s : State) (p : Nat) (run : List Byte) (fb : List Host.Cell) : List Host.Cell :=
  applyWrites (runWrites s p run) fb

/-- Every pixel number from `p` to `p + n - 1` has an address inside the frame buffer (R46). -/
def pixelsInside (s : State) (p n : Nat) : Bool :=
  (List.range n).all fun k => decide (fbAddr s (p + k) < frameBytes s)

/-! ## The two ports -/

/-- Writes as they are seen on the frame-buffer port (R5), the newest first. -/
def wroteRecord (ws : List Host.Cell) : List PortEvent := ws.map fun c => .wrote c.1 c.2

/-- Bytes, given in the order of the source, as they are seen on its port (R5), the newest first. -/
def byteRecord (bytes : List Byte) : List PortEvent := (bytes.map .consumed).reverse

/-- The writes among what was seen on the ports. -/
def writesSeen (ports : List PortEvent) : List Host.Cell :=
  ports.filterMap fun e =>
    match e with
    | .wrote a v => some (a, v)
    | .consumed _ => none

/-- From one state to another the bytes in front of the source were consumed, in order, and nothing else was seen. -/
def tookBytes (s t : State) : Prop := ∃ bytes, s.bs = bytes ++ t.bs ∧ t.ports = byteRecord bytes ++ s.ports

/-- The next step is the block's turn, and the script goes on with `e` (log 1). -/
def blockTurn (s : State) (e : List EnvEvent) : Prop := s.env = [] ∧ e = [] ∨ s.env = .tick :: e

/-! ## The rows a claim is about, and what their steps write -/

/-- The rows of the data code of value `c`: `LIT`, `REF`, `KWK` and the literal row of each size (R68, R69). -/
def isDataRow (i : Instr) (c : Code) : Prop :=
  i = .lit c ∨ i = .ref c ∨ i = .kwk c ∨ ∃ k, 2 ≤ k ∧ k ≤ 8 ∧ c.toNat < 2 ^ k ∧ i = literalRow k c

/-- The rows of the stop code: `STOP` and that of each size (R68, R69). -/
def isStopRow (i : Instr) : Prop := i = .stop ∨ ∃ k, 2 ≤ k ∧ k ≤ 8 ∧ i = stopRow k

/-- `WIDTH` once a pending growth is applied (R104). -/
def grownWidth (s : State) : BitVec 4 := if s.flight.grow then s.width + 1#4 else s.width

/-- The table once the newest entry is repaired, where the step repairs it (R120, R128). -/
def repairedTable (s : State) (first : Byte) : List (Nat × Entry) :=
  if s.flight.inserted && (s.params.repairOnFill || !s.full) then storeSuffix s.table (s.nent.toNat - 1) first
  else s.table

/-! ## The code stream -/

/-- The data bytes that the framing yields from here on (R61, R82): `rem` bytes are left in the open sub-block; a
length byte 0 or the end of the source ends them. -/
def dataBytes (rem : Nat) (bytes : List Byte) : List Byte :=
  match bytes, rem with
  | [], _ => []
  | n :: r, 0 => if n = 0#8 then [] else dataBytes n.toNat r
  | d :: r, k + 1 => d :: dataBytes k r

/-- The bits of a byte, the least significant first (R41). -/
def byteBits (b : Byte) : List Bool := (List.range 8).map fun i => b.getLsbD i

/-- The bits of the code stream not consumed yet: those of `CUR` from `SHIFT` up, none when `SHIFT = 0` (R21), then
those of the data bytes to come (R41). -/
def unreadBits (s : State) : List Bool :=
  (if s.shift = 0#3 then [] else (byteBits s.cur).drop s.shift.toNat) ++
    (dataBytes s.subrem.toNat s.bs).flatMap byteBits

/-- The value of a code whose bits stand in stream order (R41: `sum of b[q+k] * 2^k`). -/
def codeValue (bits : List Bool) : Nat :=
  match bits with
  | [] => 0
  | b :: r => b.toNat + 2 * codeValue r

/-- What stands behind the terminator of the image data, if it comes (R61, R85). -/
def afterTerminator (rem : Nat) (bytes : List Byte) : Option (List Byte) :=
  match bytes, rem with
  | [], _ => none
  | n :: r, 0 => if n = 0#8 then some r else afterTerminator n.toNat r
  | _ :: r, k + 1 => afterTerminator k r

/-! ## The invariant -/

/-- The state `START` leaves, before `INIT` (R29's second column). -/
structure InitInv (s : State) : Prop where
  off : s.off = 0#32
  info : s.info = 0#32
  size : s.size = 0#4
  width : s.width = 0#4
  nent : s.nent = 0#13
  full : s.full = false
  hasPrev : s.hasPrev = false
  prevCode : s.prevCode = 0#12
  prevLen : s.prevLen = 0#13
  prevFirst : s.prevFirst = 0#8
  cur : s.cur = 0#8
  shift : s.shift = 0#3
  subrem : s.subrem = 0#8
  table : s.table = []

/-- The decoder registers between the steps of a decode (R30 items 1 to 3), and the width `INIT` has tested. `HASPREV`
is 0 only right after `INIT` or a clear code, so `NENT` is then its first value (R80, R102, R106, R129). -/
structure RegisterInv (s : State) : Prop where
  subWidth : s.w ≠ 0#16
  size : 2 ≤ s.size.toNat ∧ s.size.toNat ≤ 8
  nent : 2 ^ s.size.toNat + 2 ≤ s.nent.toNat ∧ s.nent.toNat ≤ 4096
  depth : s.nent.toNat ≤ s.params.tableDepth
  full : s.full = true ↔ s.nent.toNat = 4096
  fresh : s.hasPrev = false → s.nent.toNat = 2 ^ s.size.toNat + 2
  frozenWidth : s.hasPrev = false ∨ s.full = true →
    s.width.toNat = max (s.size.toNat + 1) (bitlen (s.nent.toNat - 1))
  growingWidth : s.hasPrev = true → s.full = false →
    s.width.toNat = max (s.size.toNat + 1) (bitlen s.nent.toNat)
  widthLimit : s.width.toNat ≤ 12

/-- An inserted entry at index `i` (R30 item 4, R107). -/
def insertedEntryOk (s : State) (i : Nat) : Prop :=
  ∃ e j p, lookup s.table i = some e ∧ e.pfx = some j ∧ j.toNat < i ∧ lookup s.table j.toNat = some p ∧
    e.len.toNat = p.len.toNat + 1 ∧ e.len.toNat ≤ i - 2 ^ s.size.toNat

/-- The code table and the previous-code registers between the steps of a decode (R25, R30 items 4 and 5, R107). -/
structure TableInv (s : State) : Prop where
  roots : ∀ k, k < 2 ^ s.size.toNat →
    lookup s.table k = some { len := 1#13, pfx := none, suffix := BitVec.ofNat 8 k }
  clearSlot : lookup s.table (2 ^ s.size.toNat) = none
  stopSlot : lookup s.table (2 ^ s.size.toNat + 1) = none
  above : ∀ i, s.nent.toNat ≤ i → lookup s.table i = none
  inserted : ∀ i, 2 ^ s.size.toNat + 2 ≤ i → i < s.nent.toNat → insertedEntryOk s i
  previous : s.hasPrev = true →
    s.prevCode.toNat < s.nent.toNat ∧
    ∃ r, runOf s.table walkFuel s.prevCode.toNat = some r ∧ s.prevLen.toNat = r.length ∧
      r.head? = some s.prevFirst

/-- What holds between any two steps. -/
structure Inv (s : State) : Prop where
  params : s.params.wf = true
  rest : s.flight = Flight.rest
  frameForm : Memory.wf s.fb = true
  tableForm : Memory.wf s.table = true
  cause : s.cause.isSome = true ↔ s.state = .fault
  info : s.state ≠ .fault → s.info = 0#32
  noTable : s.state ≠ .busy → s.table = []
  noTrail : s.state = .busy → s.trail = false
  starting : s.state = .busy → s.phase = .init → InitInv s
  registers : s.state = .busy → s.phase = .symbol → RegisterInv s
  decoding : s.state = .busy → s.phase = .symbol → TableInv s

end Sys2Proof.Machine
end

