-- ==== Sys2Proof/Certificates/Slice0/Obligations.lean ====
section
/-!
DEFINITION. The statements for the provers: what the numbered rules of spec/ say of instructions and of the machine.
A state written `{ s with ... }` is also the statement's frame: everything not named in it is as in `s`.
-/

open Sys2Proof Sys2Proof.Machine

/-! ## Encoding -/

/-- O1. Decoding an encoded well-formed instruction gives it back, in every place it can stand in
(spec/30_encoding.md sections 2 to 6). -/
def Obligations.DecodeOfEncode : Prop :=
  ∀ (ctx : Context) (i : Instr), i.wf = true → i.fits ctx = true → decode ctx (encode ctx.size i) = .ok i

/-- O2. Encoding what was decoded gives the bits back, for a byte and for a code. -/
def Obligations.EncodeOfDecode : Prop :=
  ∀ (ctx : Context) (w : Word) (i : Instr),
    (∀ off, ctx ≠ .hostWrite off) → decode ctx w = .ok i → encode ctx.size i = w

/-- O3. The class of every code, by the six tests of R68 in their order. The rows of a size are the model's reading
of R76 (log 9). -/
def Obligations.CodeClasses : Prop :=
  ∀ (size nent : Nat) (inserted : Bool) (c : Code), 2 ^ size + 2 ≤ nent →
    (c.toNat = 2 ^ size → classify size nent inserted c = clearRow size) ∧
    (c.toNat = 2 ^ size + 1 → classify size nent inserted c = stopRow size) ∧
    (nent ≤ c.toNat → classify size nent inserted c = .inv c) ∧
    (c.toNat < 2 ^ size → classify size nent inserted c = literalRow size c) ∧
    (2 ^ size + 2 ≤ c.toNat → c.toNat + 1 = nent → inserted = true → classify size nent inserted c = .kwk c) ∧
    (2 ^ size + 2 ≤ c.toNat → c.toNat < nent → ¬(c.toNat + 1 = nent ∧ inserted = true) →
      classify size nent inserted c = .ref c)

/-- O4. The per-size rows are the mask patterns of R69 on the code zero-extended to 12 bits. -/
def Obligations.MaskRowsDecode : Prop :=
  ∀ (k nent : Nat) (inserted : Bool) (c : Code), 2 ≤ k → k ≤ 8 → 2 ^ k + 2 ≤ nent →
    (classify k nent inserted c = clearRow k ↔ c &&& 0xFFF#12 = BitVec.ofNat 12 (2 ^ k)) ∧
    (classify k nent inserted c = stopRow k ↔ c &&& 0xFFF#12 = BitVec.ofNat 12 (2 ^ k + 1)) ∧
    ((∃ d, classify k nent inserted c = literalRow k d) ↔
      c &&& (0xFFF#12 &&& ~~~(BitVec.ofNat 12 (2 ^ k - 1))) = 0#12)

/-- O5. A word of each family, written out from its encoding (R62 to R64, R68, R69, R73). That a clear, stop or literal
code of a size from 2 to 8 answers the row of its size and not the generic row is the model's choice (log 9). -/
def Obligations.WordsDecode : Prop :=
  decode (.byte .first) 0b00000010#32 = .ok (.mcs 2#8) ∧
  decode (.byte .length) 0b11111111#32 = .ok (.len 255#8) ∧
  decode (.byte .length) 0b00000000#32 = .ok .term ∧
  decode (.byte .data) 0b00000000#32 = .ok (.data 0#8) ∧
  decode (.code 2 6 false 3) 0b100#32 = .ok .clrS2 ∧
  decode (.code 8 300 true 9) 0b100000001#32 = .ok .stopS8 ∧
  decode (.code 3 17 true 4) 0b0111#32 = .ok (.litS3 0b111#3) ∧
  decode (.code 2 9 true 4) 0b1000#32 = .ok (.kwk 8#12) ∧
  decode (.code 2 9 false 4) 0b1000#32 = .ok (.ref 8#12) ∧
  decode (.code 2 9 true 4) 0b1001#32 = .ok (.inv 9#12) ∧
  decode (.hostWrite 0x08) 0x00020001#32 = .ok (.setOrigin 1#16 2#16) ∧
  decode (.hostWrite 0x0C) 0xABCD0003#32 = .ok (.setSubw 3#16) ∧
  decode (.hostWrite 0x10) 0x00040005#32 = .ok (.setCanvas 5#16 4#16) ∧
  decode (.hostWrite 0x00) 0xFFFFFFFF#32 = .ok .start

/-! ## The framer and the bit reader -/

/-- O6. `NextByte()` (R81): the first byte, which is then seen on the source's port, or `UnexpectedEof(OFF)`. -/
def Obligations.NextByteTakesOne : Prop :=
  ∀ s : State,
    (s.bs = [] → nextByte s = .halt (.next { s with
      state := .fault, cause := some .unexpectedEof, info := s.off, table := [], flight := Flight.rest })) ∧
    (∀ b r, s.bs = b :: r → nextByte s = .go b { s with bs := r, ports := .consumed b :: s.ports })

/-- O7. `FetchData(got)` (R82), in each of its cases; the tokens' meanings are what it does. -/
def Obligations.FetchDataByTokens : Prop :=
  ∀ s : State, s.flight.draining = false →
    (s.subrem = 0#8 → s.bs = [] → fetchData s = .halt (.next (faulted .unexpectedEof s.off.toNat s))) ∧
    (∀ r, s.subrem = 0#8 → s.bs = 0#8 :: r →
      fetchData s = .halt (exec .term (consume 0#8 r s)) ∧
      fetchData s = .halt (.next (faulted .prematureTerminator s.flight.got (consume 0#8 r s)))) ∧
    (∀ n, s.subrem = 0#8 → n ≠ 0#8 → s.bs = [n] →
      fetchData s = .halt (.next (faulted .unexpectedEof s.off.toNat { consume n [] s with subrem := n }))) ∧
    (∀ n d r, s.subrem = 0#8 → n ≠ 0#8 → s.bs = n :: d :: r →
      ∃ t u, exec (.len n) (consume n (d :: r) s) = .next t ∧ exec (.data d) (consume d r t) = .next u ∧
        fetchData s = .go () u ∧
        u = { s with
          bs := r, ports := .consumed d :: .consumed n :: s.ports, subrem := n - 1#8, cur := d }) ∧
    (s.subrem ≠ 0#8 → s.bs = [] → fetchData s = .halt (.next (faulted .unexpectedEof s.off.toNat s))) ∧
    (∀ d r, s.subrem ≠ 0#8 → s.bs = d :: r →
      ∃ u, exec (.data d) (consume d r s) = .next u ∧ fetchData s = .go () u ∧
        u = { s with bs := r, ports := .consumed d :: s.ports, subrem := s.subrem - 1#8, cur := d })

/-- O8. The byte tokens while a code is read (R82): `LEN` and `DATA` complete, `TERM` raises
`PrematureTerminator(got)` (R154). -/
def Obligations.TokensOfACode : Prop :=
  ∀ s : State, s.flight.draining = false →
    (∀ n, exec (.len n) s = .next { s with subrem := n }) ∧
    (∀ d, exec (.data d) s = .next { s with subrem := s.subrem - 1#8, cur := d }) ∧
    exec .term s = .next { s with
      state := .fault, cause := some .prematureTerminator, info := BitVec.ofNat 32 s.flight.got, table := [],
      flight := Flight.rest }

/-- O9. The byte tokens while `Drain` discards (R85): `LEN` drops its sub-block, `DATA` itself, `TERM` ends it. That
`LEN` leaves `SUBREM` as it is, also where the source ends inside the sub-block, is the model's reading (log 16). -/
def Obligations.TokensOfADrain : Prop :=
  ∀ s : State, s.flight.draining = true →
    (∀ n : Byte, n.toNat ≤ s.bs.length →
      exec (.len n) s = .next { s with
        trail := true, bs := s.bs.drop n.toNat, ports := byteRecord (s.bs.take n.toNat) ++ s.ports }) ∧
    (∀ n : Byte, s.bs.length < n.toNat →
      exec (.len n) s = .next (faulted .unexpectedEof s.off.toNat { s with
        trail := true, bs := [], ports := byteRecord s.bs ++ s.ports })) ∧
    (∀ d, exec (.data d) s = .next { s with subrem := s.subrem - 1#8, trail := true }) ∧
    exec .term s = .next { s with shift := 0#3, flight := { s.flight with draining := false } }

/-- O10. `ReadCode(n)` answers the next `n` bits of the code stream, the first of them the least significant, and
leaves the rest; only the bit reader moves, and the bytes it consumes are seen on the source's port in their order
(R5, R41, R66, R83). -/
def Obligations.ReadCodeTakesNextBits : Prop :=
  ∀ (n : Nat) (s : State), 3 ≤ n → n ≤ 12 → s.flight.draining = false → n ≤ (unreadBits s).length →
    ∃ t, readCode n s = .go (codeValue ((unreadBits s).take n)) t ∧ unreadBits t = (unreadBits s).drop n ∧
      tookBytes s t ∧
      t = { s with
        cur := t.cur, shift := t.shift, subrem := t.subrem, bs := t.bs, ports := t.ports,
        flight := { s.flight with got := t.flight.got } }

/-- O11. Where the code stream has fewer bits left than the code needs, `ReadCode` consumes what is left of it. If the
terminator comes it is consumed too and `PrematureTerminator` is raised with the number of bits there were (R154); if
the source ends first, `UnexpectedEof` is raised (R155). Only the bit reader has moved. -/
def Obligations.ReadCodeRunsOut : Prop :=
  ∀ (n : Nat) (s : State), 3 ≤ n → n ≤ 12 → s.flight.draining = false → (unreadBits s).length < n →
    ∃ t,
      (∀ r, afterTerminator s.subrem.toNat s.bs = some r →
        readCode n s = .halt (.next (faulted .prematureTerminator (unreadBits s).length t)) ∧
          t.bs = r ∧ t.subrem = 0#8) ∧
      (afterTerminator s.subrem.toNat s.bs = none →
        readCode n s = .halt (.next (faulted .unexpectedEof s.off.toNat t)) ∧ t.bs = []) ∧
      tookBytes s t ∧
      t = { s with
        cur := (dataBytes s.subrem.toNat s.bs).getLastD s.cur, shift := 0#3, subrem := t.subrem, bs := t.bs,
        ports := t.ports, flight := { s.flight with got := t.flight.got } }

/-! ## Faults and `INIT` -/

/-- O12. `raise F(info)` (R150): `STATE`, `CAUSE`, `INFO` are written, the table becomes unspecified, everything else
stays as the lines before left it. -/
def Obligations.RaiseTakesFault : Prop :=
  ∀ (c : Cause) (info : Nat) (s : State),
    (raise c info s : Flow Unit) = .halt (.next { s with
      state := .fault, cause := some c, info := BitVec.ofNat 32 info, table := [], flight := Flight.rest })

/-- O13. The `INIT` step (R80), in the order of its tests: `BadGeometry`, `UnexpectedEof`, `BadMinCodeSize`, then the
seeding. -/
def Obligations.InitStep : Prop :=
  ∀ (s : State) (e : List EnvEvent), blockTurn s e → s.state = .busy → s.phase = .init →
    (s.w = 0#16 → step s = .next (faulted .badGeometry 0 { s with env := e })) ∧
    (s.w ≠ 0#16 → s.bs = [] → step s = .next (faulted .unexpectedEof s.off.toNat { s with env := e })) ∧
    (∀ b r, s.w ≠ 0#16 → s.bs = b :: r →
      step s = exec (.mcs b) { s with env := e, bs := r, ports := .consumed b :: s.ports } ∧
      (b.toNat < 2 ∨ 8 < b.toNat →
        step s = .next (faulted .badMinCodeSize b.toNat { s with
          env := e, bs := r, ports := .consumed b :: s.ports })) ∧
      (2 ≤ b.toNat → b.toNat ≤ 8 → step s = .next { s with
        env := e, bs := r, ports := .consumed b :: s.ports, size := BitVec.ofNat 4 b.toNat,
        width := BitVec.ofNat 4 (b.toNat + 1), nent := BitVec.ofNat 13 (2 ^ b.toNat + 2), full := false,
        hasPrev := false, table := rootEntries b.toNat, phase := .symbol, flight := Flight.rest }))

/-- O14. `MCS` with a legal size completes and seeds exactly the root entries (R62, R100). -/
def Obligations.McsSeedsRoots : Prop :=
  ∀ (b : Byte) (s : State), 2 ≤ b.toNat → b.toNat ≤ 8 →
    ∃ t, exec (.mcs b) s = .next t ∧ t.size.toNat = b.toNat ∧ t.width.toNat = b.toNat + 1 ∧
      t.nent.toNat = 2 ^ b.toNat + 2 ∧ t.phase = .symbol ∧ t.full = false ∧ t.hasPrev = false ∧
      Memory.wf t.table = true ∧
      (∀ k, k < 2 ^ b.toNat → lookup t.table k = some { len := 1#13, pfx := none, suffix := BitVec.ofNat 8 k }) ∧
      (∀ k, 2 ^ b.toNat ≤ k → lookup t.table k = none)

/-! ## Control codes -/

/-- O15. `CLR` and its seven per-size rows complete and reset width, count, `FULL`, `HASPREV` and nothing of the bit
reader or the output (R106). That the entries from `2^S` up lose their defined value is R25 (log 5). -/
def Obligations.ClearCodeResets : Prop :=
  ∀ (k : Nat) (s : State), 2 ≤ k → k ≤ 8 →
    exec (clearRow k) s = .next { s with
      width := BitVec.ofNat 4 (k + 1), nent := BitVec.ofNat 13 (2 ^ k + 2), full := false, hasPrev := false,
      table := entriesBelow (2 ^ k) s.table, flight := Flight.rest } ∧
    (s.size.toNat = k → exec .clr s = .next { s with
      width := BitVec.ofNat 4 (k + 1), nent := BitVec.ofNat 13 (2 ^ k + 2), full := false, hasPrev := false,
      table := entriesBelow (2 ^ k) s.table, flight := Flight.rest })

/-- O16. After `INIT` a clear code changes nothing: the two leave the same state (R80, R121 a). -/
def Obligations.ClearAfterInitChangesNothing : Prop :=
  ∀ (b : Byte) (s t : State), 2 ≤ b.toNat → b.toNat ≤ 8 → exec (.mcs b) s = .next t → exec .clr t = .next t

/-- O17. Where `S` is its size, a per-size row does what the generic row does (R69, R76; log 9). -/
def Obligations.PerSizeRowsAgree : Prop :=
  ∀ (k : Nat) (s : State) (c : Code), 2 ≤ k → k ≤ 8 → s.size.toNat = k →
    exec (clearRow k) s = exec .clr s ∧ exec (stopRow k) s = exec .stop s ∧
    (c.toNat < 2 ^ k → exec (literalRow k c) s = exec (.lit c) s)

/-- O18. `STOP` and its per-size rows (R85, R122): with a terminator to come the run ends `DONE` behind it, `TRAIL`
telling whether anything else was discarded; without one it ends in `UnexpectedEof`, the source exhausted, `TRAIL`
telling whether anything was discarded (`SUBREM` is then left open: log 16). -/
def Obligations.StopCodeEndsRun : Prop :=
  ∀ (i : Instr) (s : State), isStopRow i →
    (∀ r, afterTerminator s.subrem.toNat s.bs = some r →
      exec i s = .next { s with
        state := .done, trail := s.trail || !(decide (s.subrem = 0#8) && decide (s.bs.head? = some 0#8)),
        subrem := 0#8, shift := 0#3, bs := r,
        ports := byteRecord (s.bs.take (s.bs.length - r.length)) ++ s.ports, table := [],
        flight := Flight.rest }) ∧
    (afterTerminator s.subrem.toNat s.bs = none →
      ∃ t, exec i s = .next t ∧ t = { s with
        state := .fault, cause := some .unexpectedEof, info := s.off, trail := s.trail || !s.bs.isEmpty,
        subrem := t.subrem, bs := [], ports := byteRecord s.bs ++ s.ports, table := [], flight := Flight.rest })

/-- O19. `INV` (R126, R158): the pending growth is applied, `InvalidCode` is raised with the code as `INFO`, nothing
else changes. -/
def Obligations.InvalidCodeFaults : Prop :=
  ∀ (c : Code) (s : State), exec (.inv c) s = .next { s with
    width := grownWidth s, state := .fault, cause := some .invalidCode, info := c.setWidth 32, table := [],
    flight := Flight.rest }

/-! ## Data codes -/

/-- O20. `LIT` and its per-size rows (R123), the root entry being in the table: one pixel, or `FbRange`. -/
def Obligations.LiteralEmitsPixel : Prop :=
  ∀ (i : Instr) (c : Code) (s : State),
    (i = .lit c ∨ ∃ k, 2 ≤ k ∧ k ≤ 8 ∧ c.toNat < 2 ^ k ∧ i = literalRow k c) →
    lookup s.table c.toNat = some { len := 1#13, pfx := none, suffix := c.setWidth 8 } → s.w ≠ 0#16 →
    (fbAddr s s.off.toNat < frameBytes s →
      exec i s = .next { s with
        width := grownWidth s, fb := store s.fb (fbAddr s s.off.toNat) (c.setWidth 8),
        ports := .wrote (fbAddr s s.off.toNat) (c.setWidth 8) :: s.ports, off := s.off + 1#32,
        table := repairedTable s (c.setWidth 8), hasPrev := true, prevCode := c, prevLen := 1#13,
        prevFirst := c.setWidth 8, flight := Flight.rest }) ∧
    (frameBytes s ≤ fbAddr s s.off.toNat →
      exec i s = .next { s with
        width := grownWidth s, state := .fault, cause := some .fbRange, info := s.off, table := [],
        flight := Flight.rest })

/-- O21. `REF` and `KWK` (R124, R127, R129), and every other data row: the run of the entry is painted from pixel
number `OFF` on, the highest first, each write seen on the port in that order; `OFF`, the newest entry and the
previous-code registers follow. -/
def Obligations.DataCodeEmitsRun : Prop :=
  ∀ (i : Instr) (c : Code) (s : State) (r : List Byte), isDataRow i c →
    runOf s.table walkFuel c.toNat = some r → s.w ≠ 0#16 → pixelsInside s s.off.toNat r.length = true →
    exec i s = .next { s with
      width := grownWidth s, fb := paint s s.off.toNat r s.fb,
      ports := wroteRecord (runWrites s s.off.toNat r) ++ s.ports, off := s.off + BitVec.ofNat 32 r.length,
      table := repairedTable s (r.headD 0#8), hasPrev := true, prevCode := c, prevLen := BitVec.ofNat 13 r.length,
      prevFirst := r.headD 0#8, flight := Flight.rest }

/-- O22. Where the sub-image is no wider than the canvas, pixel `k` of a run ends up at pixel number `OFF + k` with
the run's value (R45, R127). -/
def Obligations.RunPixelsPlaced : Prop :=
  ∀ (s : State) (p : Nat) (r : List Byte) (fb : List Host.Cell) (k : Nat),
    s.w ≠ 0#16 → s.w.toNat ≤ s.cw.toNat → k < r.length →
    lookup (paint s p r fb) (fbAddr s (p + k)) = r[k]?

/-- O23. The frame of the data rows, completed or faulted: no byte of the frame buffer outside the addresses of the
run's pixel numbers, no register of the host, the source or the bit reader changes; nothing is seen on the ports but
writes of the run, from its last pixel down. -/
def Obligations.DataCodeFrame : Prop :=
  ∀ (i : Instr) (c : Code) (s t : State) (r : List Byte), isDataRow i c →
    runOf s.table walkFuel c.toNat = some r → exec i s = .next t →
    (∀ a, (∀ k, k < r.length → a ≠ fbAddr s (s.off.toNat + k)) → frameByte t a = frameByte s a) ∧
    (t.trail, t.x, t.y, t.w, t.cw, t.ch, t.phase, t.size, t.nent, t.full) =
      (s.trail, s.x, s.y, s.w, s.cw, s.ch, s.phase, s.size, s.nent, s.full) ∧
    (t.cur, t.shift, t.subrem, t.bs, t.params, t.env, t.hostData, t.freeCtr) =
      (s.cur, s.shift, s.subrem, s.bs, s.params, s.env, s.hostData, s.freeCtr) ∧
    ∃ k, t.ports = wroteRecord (runWrites s (s.off.toNat + k) (r.drop k)) ++ s.ports

/-- O24. `FbRange` (R156): at the first pixel, from the highest down, whose address is outside, the write is not
performed, earlier writes stay, `OFF` is the value before the run, `INFO` the pixel number. -/
def Obligations.DataCodeOutOfRange : Prop :=
  ∀ (i : Instr) (c : Code) (s : State) (r : List Byte) (k : Nat), isDataRow i c →
    runOf s.table walkFuel c.toNat = some r → s.w ≠ 0#16 → k < r.length →
    frameBytes s ≤ fbAddr s (s.off.toNat + k) →
    (∀ j, k < j → j < r.length → fbAddr s (s.off.toNat + j) < frameBytes s) →
    exec i s = .next { s with
      width := grownWidth s, state := .fault, cause := some .fbRange, info := BitVec.ofNat 32 (s.off.toNat + k),
      fb := paint s (s.off.toNat + k + 1) (r.drop (k + 1)) s.fb,
      ports := wroteRecord (runWrites s (s.off.toNat + k + 1) (r.drop (k + 1))) ++ s.ports, table := [],
      flight := Flight.rest }

/-- O25. `OFF` never wraps (R17): a data code that completes adds the run's length to it as a number, and it stays
within the bound of R17. -/
def Obligations.OffsetNeverWraps : Prop :=
  ∀ (i : Instr) (c : Code) (s t : State), isDataRow i c → s.state = .busy → exec i s = .next t → t.state = .busy →
    ∃ e, lookup s.table c.toNat = some e ∧ t.off.toNat = s.off.toNat + e.len.toNat ∧
      t.off.toNat ≤ 65535 * 65535 + 65535

/-- O26. The repair (R128): after a data code that completes, the newest entry's suffix is the run's first pixel where
the step inserted it (with `REPAIR_ON_FILL` or the table not full); every other entry and field is as before. -/
def Obligations.RepairWritesSuffix : Prop :=
  ∀ (i : Instr) (c : Code) (s t : State) (a : Nat), isDataRow i c → s.state = .busy → exec i s = .next t →
    t.state = .busy →
    lookup t.table a =
      if a = s.nent.toNat - 1 ∧ s.flight.inserted = true ∧ (s.params.repairOnFill = true ∨ s.full = false) then
        (lookup s.table a).map fun e => { e with suffix := t.prevFirst }
      else lookup s.table a

/-! ## The code table and the `SYMBOL` step -/

/-- O27. The insertion phase (R102), below the cap of R4. -/
def Obligations.InsertionPhase : Prop :=
  ∀ s : State,
    (s.hasPrev = true → s.full = false → s.params.tableDepth ≤ s.nent.toNat →
      insertPhase s = .halt (.next (faulted .outOfMemory s.nent.toNat s))) ∧
    (s.hasPrev = true → s.full = false → s.nent.toNat < s.params.tableDepth → s.nent.toNat < 4096 →
      insertPhase s = .go () { s with
        table := store s.table s.nent.toNat
          { len := s.prevLen + 1#13, pfx := some s.prevCode, suffix := s.prevFirst }
        nent := BitVec.ofNat 13 (s.nent.toNat + 1)
        full := decide (s.nent.toNat + 1 = 4096)
        flight :=
          { inserted := true, got := 0, draining := false,
            grow := decide (s.nent.toNat + 1 < 4096) && decide (s.width.toNat < 12) &&
              (List.range 12).any fun k => s.nent.toNat + 1 == 2 ^ k } }) ∧
    (s.hasPrev = false ∨ s.full = true → insertPhase s = .go () { s with flight := Flight.rest })

/-- O28. A step runs the decoded instruction: at the block's turn (log 1) the `MCS` byte of `INIT` (R80) or the code
of `SYMBOL` in the state after insertion and fetch (R120), at a host write the command it is (R73). -/
def Obligations.StepRunsDecodedInstruction : Prop :=
  ∀ s : State,
    (∀ e b r, blockTurn s e → s.state = .busy → s.phase = .init → s.w ≠ 0#16 → s.bs = b :: r →
      step s = exec (decodeByte .first b) { s with env := e, bs := r, ports := .consumed b :: s.ports }) ∧
    (∀ e t o, blockTurn s e → s.state = .busy → s.phase = .symbol → insertPhase { s with env := e } = .go () t →
      readCode t.width.toNat t = .halt o → step s = o) ∧
    (∀ e t c u, blockTurn s e → s.state = .busy → s.phase = .symbol → insertPhase { s with env := e } = .go () t →
      readCode t.width.toNat t = .go c u →
      step s = exec (classify u.size.toNat u.nent.toNat u.flight.inserted (BitVec.ofNat 12 c)) u) ∧
    (∀ e o, blockTurn s e → s.state = .busy → s.phase = .symbol → insertPhase { s with env := e } = .halt o →
      step s = o) ∧
    (∀ off v r i, s.env = .write 32 off v :: r → decode (.hostWrite off) v = .ok i →
      step s = exec i { s with env := r })

/-- O29. The arms of the `SYMBOL` step (R120), whatever row the code decodes to: clear, stop, invalid, data. -/
def Obligations.SymbolStepFollowsClass : Prop :=
  ∀ (s t u : State) (e : List EnvEvent) (c : Nat), blockTurn s e → s.state = .busy → s.phase = .symbol →
    insertPhase { s with env := e } = .go () t → readCode t.width.toNat t = .go c u →
    (c = 2 ^ u.size.toNat → step s = exec .clr u) ∧
    (c = 2 ^ u.size.toNat + 1 → step s = exec .stop u) ∧
    (c ≠ 2 ^ u.size.toNat → c ≠ 2 ^ u.size.toNat + 1 → u.nent.toNat ≤ c →
      step s = exec (.inv (BitVec.ofNat 12 c)) u) ∧
    (c ≠ 2 ^ u.size.toNat → c ≠ 2 ^ u.size.toNat + 1 → c < u.nent.toNat →
      step s = exec (.ref (BitVec.ofNat 12 c)) u)

/-- O30. The width of every fetch in closed form (R70). -/
def Obligations.FetchWidthClosedForm : Prop :=
  ∀ s t : State, Inv s → s.state = .busy → s.phase = .symbol → insertPhase s = .go () t →
    t.width.toNat = max (t.size.toNat + 1) (bitlen (t.nent.toNat - 1)) ∧ t.size.toNat + 1 ≤ t.width.toNat ∧
    t.width.toNat ≤ 12 ∧ t.nent.toNat - 1 < 2 ^ t.width.toNat

/-- O31. The run of the code that a step inserts itself is the previous run and its own first pixel (R125). -/
def Obligations.SelfReferenceRun : Prop :=
  ∀ (s t : State) (r : List Byte), Inv s → s.state = .busy → s.phase = .symbol → s.hasPrev = true → s.full = false →
    insertPhase s = .go () t → runOf s.table walkFuel s.prevCode.toNat = some r →
    runOf t.table walkFuel (t.nent.toNat - 1) = some (r ++ [r.headD 0#8])

/-- O32. Every valid code resolves: its chain is finite, ends at a root and has the length of its entry (R107). -/
def Obligations.ValidCodesResolve : Prop :=
  ∀ (s : State) (c : Nat), Inv s → s.state = .busy → s.phase = .symbol → c < s.nent.toNat →
    c ≠ 2 ^ s.size.toNat → c ≠ 2 ^ s.size.toNat + 1 →
    ∃ r e, runOf s.table walkFuel c = some r ∧ lookup s.table c = some e ∧ e.len.toNat = r.length ∧
      r.length ≤ 4095

/-- O33. A pixel write (R46): inside the buffer it writes that byte, outside it raises `FbRange(p)` and writes none. -/
def Obligations.PixelWrite : Prop :=
  ∀ (p : Nat) (v : Byte) (s : State), s.w ≠ 0#16 →
    (fbAddr s p < s.cw.toNat * s.ch.toNat → ∃ t, writePixel p v s = .go () t ∧
      t = { s with fb := t.fb, ports := .wrote (fbAddr s p) v :: s.ports } ∧
      frameByte t (fbAddr s p) = some v ∧ ∀ a, a ≠ fbAddr s p → frameByte t a = frameByte s a) ∧
    (s.cw.toNat * s.ch.toNat ≤ fbAddr s p → writePixel p v s = .halt (.next (faulted .fbRange p s)))

/-! ## The host -/

/-- O34. `SET_ORIGIN`, `SET_SUBW`, `SET_CANVAS` (R141): complete outside `BUSY`, change nothing while `BUSY`; and the
word writes that are these commands. -/
def Obligations.GeometryWrites : Prop :=
  ∀ s : State,
    (∀ x y, exec (.setOrigin x y) s = .next (if s.state = .busy then s else { s with x := x, y := y })) ∧
    (∀ w, exec (.setSubw w) s = .next (if s.state = .busy then s else { s with w := w })) ∧
    (∀ cw ch, exec (.setCanvas cw ch) s = .next (if s.state = .busy then s else { s with cw := cw, ch := ch })) ∧
    (∀ v r, s.env = .write 32 0x08 v :: r →
      step s = exec (.setOrigin (v.extractLsb' 0 16) (v.extractLsb' 16 16)) { s with env := r }) ∧
    (∀ v r, s.env = .write 32 0x0C v :: r → step s = exec (.setSubw (v.extractLsb' 0 16)) { s with env := r }) ∧
    (∀ v r, s.env = .write 32 0x10 v :: r →
      step s = exec (.setCanvas (v.extractLsb' 0 16) (v.extractLsb' 16 16)) { s with env := r })

/-- O35. `START` (R142): completes outside `BUSY`, consuming no byte and writing no pixel; changes nothing while
`BUSY`; and the word write that is this command. -/
def Obligations.StartBegins : Prop :=
  ∀ s : State,
    (s.state ≠ .busy → exec .start s = .next { s with
      state := .busy, phase := .init, cause := none, trail := false, info := 0#32, off := 0#32, size := 0#4,
      width := 0#4, nent := 0#13, full := false, hasPrev := false, prevCode := 0#12, prevLen := 0#13,
      prevFirst := 0#8, cur := 0#8, shift := 0#3, subrem := 0#8 }) ∧
    (s.state = .busy → exec .start s = .next s) ∧
    (∀ v r, s.env = .write 32 0x00 v :: r → v.getLsbD 0 = true → step s = exec .start { s with env := r })

/-- O36. Writes with no effect (R143). -/
def Obligations.IgnoredWrites : Prop :=
  ∀ (s : State) (off : Nat) (v : Word) (r : List EnvEvent), s.env = .write 32 off v :: r →
    (off ∈ [0x04, 0x14, 0x18, 0x1C] ∨ off = 0x00 ∧ v.getLsbD 0 = false ∨
      s.state = .busy ∧ off ∈ [0x00, 0x08, 0x0C, 0x10]) →
    step s = .next { s with env := r }

/-- O37. `RegRead` (R140): answers at each of the eight offsets, in every `STATE`, and has no side effect on the
block; `CTRL` reads as 0. Where the word stands afterwards is the model's (log 13). -/
def Obligations.RegisterReads : Prop :=
  ∀ (s : State) (off : Nat) (r : List EnvEvent), s.env = .read 32 off :: r →
    off ∈ [0x00, 0x04, 0x08, 0x0C, 0x10, 0x14, 0x18, 0x1C] →
    ∃ v, regRead off s = some v ∧ step s = .next { s with env := r, hostData := some v } ∧
      (off = 0x00 → v = 0#32) ∧ (off = 0x14 → v = s.off) ∧ (off = 0x18 → v = s.info) ∧
      (off = 0x08 → v.extractLsb' 0 16 = s.x ∧ v.extractLsb' 16 16 = s.y) ∧
      (off = 0x0C → v.extractLsb' 0 16 = s.w ∧ v.extractLsb' 16 16 = 0#16) ∧
      (off = 0x10 → v.extractLsb' 0 16 = s.cw ∧ v.extractLsb' 16 16 = s.ch)

/-- O38. The fields of `STATUS` (R13), with the codes of R151; reserved bits read as 0. -/
def Obligations.StatusFields : Prop :=
  ∀ (s : State) (v : Word), regRead 0x04 s = some v →
    v.extractLsb' 0 2 = (match s.state with
      | .idle => 0#2
      | .busy => 1#2
      | .done => 2#2
      | .fault => 3#2) ∧
    v.extractLsb' 2 2 = 0#2 ∧
    v.extractLsb' 4 4 = (match s.cause with
      | none => 0#4
      | some .outOfMemory => 1#4
      | some .badMinCodeSize => 2#4
      | some .prematureTerminator => 3#4
      | some .unexpectedEof => 4#4
      | some .invalidCode => 5#4
      | some .fbRange => 6#4
      | some .badGeometry => 7#4) ∧
    v.getLsbD 8 = s.trail ∧ v.extractLsb' 9 23 = 0#23

/-- O39. The fields of `LZWSTAT` (R19); reserved bits read as 0. -/
def Obligations.LzwstatFields : Prop :=
  ∀ (s : State) (v : Word), regRead 0x1C s = some v →
    v.extractLsb' 0 4 = s.width ∧ v.getLsbD 4 = s.full ∧ v.getLsbD 5 = s.hasPrev ∧
    v.getLsbD 6 = decide (s.phase = .symbol) ∧ v.getLsbD 7 = false ∧ v.extractLsb' 8 4 = s.size ∧
    v.extractLsb' 12 4 = 0#4 ∧ v.extractLsb' 16 13 = s.nent ∧ v.extractLsb' 29 3 = 0#3

/-- O40. An access of another width or at another offset is refused (R48). -/
def Obligations.OtherAccessesRefused : Prop :=
  ∀ (s : State) (bits off : Nat) (v : Word) (r : List EnvEvent),
    (bits ≠ 32 ∨ off ∉ [0x00, 0x04, 0x08, 0x0C, 0x10, 0x14, 0x18, 0x1C]) →
    (s.env = .read bits off :: r → step s = .refused .registerAccess) ∧
    (s.env = .write bits off v :: r → step s = .refused .registerAccess)

/-- O41. The environment and the block: outside `BUSY` the source is placed and bytes of the frame buffer are written
(R172, R174), a byte that does not exist (R27) being a fault of the model. That both are refused by name while `BUSY`
is the model's choice (log 14): R173 and U4 to U6 ask for exclusive use, and U5 alone would also allow any value. -/
def Obligations.ExclusiveUse : Prop :=
  ∀ (s : State) (bytes : List Byte) (a : Nat) (v : Byte) (r : List EnvEvent),
    (s.env = .source bytes :: r →
      step s = if s.state = .busy then .refused .sourceInUse else .next { s with env := r, bs := bytes }) ∧
    (s.env = .frame a v :: r → s.state = .busy → step s = .refused .frameInUse) ∧
    (s.env = .frame a v :: r → s.state ≠ .busy → a < frameBytes s →
      ∃ t, step s = .next t ∧ t = { s with env := r, fb := t.fb } ∧ frameByte t a = some v ∧
        ∀ b, b ≠ a → frameByte t b = frameByte s b) ∧
    (s.env = .frame a v :: r → s.state ≠ .busy → frameBytes s ≤ a → step s = .fault .noSuchFrameByte)

/-! ## Reset -/

/-- O42. Hardware reset (R170): every register as R29's first column says, the source not moved; a run in progress is
abandoned, its bytes hold any value (U3: free values, log 7), all others keep theirs; while `W = 0` the run has no
pixel number (R45) and every byte keeps its value. What was seen on the ports stays (log 19). -/
def Obligations.HardwareReset : Prop :=
  ∀ (s : State) (r : List EnvEvent), s.env = .reset :: r →
    ∃ t, step s = .next t ∧
      t = { State.reset with
        bs := s.bs, fb := t.fb, ports := s.ports, params := s.params, env := r, hostData := s.hostData,
        freeCtr := s.freeCtr + 1 } ∧
      (s.state ≠ .busy → t.fb = s.fb) ∧
      (s.w = 0#16 → t.fb = s.fb) ∧
      (∀ a, (∀ p, fbAddr s p ≠ a) → lookup t.fb a = lookup s.fb a) ∧
      (s.state = .busy → s.w ≠ 0#16 → ∀ p, fbAddr s p < frameBytes s →
        lookup t.fb (fbAddr s p) = some (Config.freeByte s.freeCtr (fbAddr s p)))

/-- O43. The three columns of R29: after hardware reset, after `START`, after `INIT`. -/
def Obligations.ResetColumns : Prop :=
  (State.reset.state = .idle ∧ State.reset.cause = none ∧ State.reset.trail = false ∧
    (State.reset.x, State.reset.y, State.reset.w, State.reset.cw, State.reset.ch) = (0#16, 0#16, 0#16, 0#16, 0#16) ∧
    (State.reset.off, State.reset.info, State.reset.phase) = (0#32, 0#32, .init) ∧
    (State.reset.size, State.reset.width, State.reset.nent) = (0#4, 0#4, 0#13) ∧
    (State.reset.full, State.reset.hasPrev) = (false, false) ∧
    (State.reset.prevCode, State.reset.prevLen, State.reset.prevFirst) = (0#12, 0#13, 0#8) ∧
    (State.reset.cur, State.reset.shift, State.reset.subrem) = (0#8, 0#3, 0#8) ∧
    ∀ i, lookup State.reset.table i = none) ∧
  (∀ s t : State, s.state ≠ .busy → exec .start s = .next t →
    (t.state, t.cause, t.trail, t.off, t.info, t.phase) = (.busy, none, false, 0#32, 0#32, .init) ∧
    (t.size, t.width, t.nent, t.full, t.hasPrev) = (0#4, 0#4, 0#13, false, false) ∧
    (t.prevCode, t.prevLen, t.prevFirst, t.cur, t.shift, t.subrem) = (0#12, 0#13, 0#8, 0#8, 0#3, 0#8) ∧
    (t.x, t.y, t.w, t.cw, t.ch, t.fb) = (s.x, s.y, s.w, s.cw, s.ch, s.fb)) ∧
  (∀ (s t : State) (b : Byte), 2 ≤ b.toNat → b.toNat ≤ 8 → exec (.mcs b) s = .next t →
    (t.state, t.cause, t.trail, t.off, t.info, t.phase) = (s.state, s.cause, s.trail, s.off, s.info, .symbol) ∧
    t.size.toNat = b.toNat ∧ t.width.toNat = b.toNat + 1 ∧ t.nent.toNat = 2 ^ b.toNat + 2 ∧
    (t.full, t.hasPrev) = (false, false) ∧
    (t.prevCode, t.prevLen, t.prevFirst, t.cur, t.shift, t.subrem) =
      (s.prevCode, s.prevLen, s.prevFirst, s.cur, s.shift, s.subrem) ∧
    (t.x, t.y, t.w, t.cw, t.ch, t.fb) = (s.x, s.y, s.w, s.cw, s.ch, s.fb) ∧
    t.table = rootEntries b.toNat)

/-! ## Invariants and rules of the whole machine -/

/-- O44. The invariant holds after reset. -/
def Obligations.ResetMeetsInvariant : Prop := Inv State.reset

/-- O45. Every step keeps the invariant: the register and table invariants of R30 and R107 between the steps of a
decode, the columns of R29 before it, a cause exactly in `FAULT`, memories in canonical form. -/
def Obligations.StepKeepsInvariant : Prop := ∀ s t : State, Inv s → step s = .next t → Inv t

/-- O46. Every step keeps the canonical form of both memories, in every state. -/
def Obligations.StepKeepsCanonicalForm : Prop :=
  ∀ s t : State, Memory.wf s.fb = true → Memory.wf s.table = true → step s = .next t →
    Memory.wf t.fb = true ∧ Memory.wf t.table = true

/-- O47. In a state that meets the invariant the block's turn never stops the machine: every instruction it meets is
run, every fault of the block is a next state (R150). -/
def Obligations.BlockNeverStops : Prop :=
  ∀ (s : State) (e : List EnvEvent), Inv s → blockTurn s e → ∃ t, step s = .next t

/-- O48. Nothing but `START` or hardware reset leaves `IDLE`, `DONE` or `FAULT` (R131, R162, R169). -/
def Obligations.OnlyStartOrResetLeavesRest : Prop :=
  ∀ s t : State, s.state ≠ .busy → step s = .next t → t.state ≠ s.state →
    (∃ v r, s.env = .write 32 0x00 v :: r ∧ v.getLsbD 0 = true ∧ t.state = .busy) ∨
    (∃ r, s.env = .reset :: r ∧ t.state = .idle)

/-- O49. The geometry of a run is the geometry at its `START` (R141); no step changes a parameter (R10, R31). -/
def Obligations.GeometryFixedWhileBusy : Prop :=
  ∀ s t : State, step s = .next t →
    t.params = s.params ∧
    (s.state = .busy → (∀ r, s.env ≠ .reset :: r) →
      (t.x, t.y, t.w, t.cw, t.ch) = (s.x, s.y, s.w, s.cw, s.ch))

/-- O50. The block consumes its source in order from the front, and never moves backwards (R22, R26). -/
def Obligations.SourceConsumedInOrder : Prop :=
  ∀ (s t : State) (e : List EnvEvent), blockTurn s e → step s = .next t → t.bs <:+ s.bs

/-- O51. Every `SYMBOL` step consumes at least 3 bits of the code stream or ends the run (R131). -/
def Obligations.SymbolStepConsumes : Prop :=
  ∀ (s t : State) (e : List EnvEvent), Inv s → blockTurn s e → s.state = .busy → s.phase = .symbol →
    step s = .next t → t.state = .busy → (unreadBits t).length + 3 ≤ (unreadBits s).length

/-- O52. With the default `TABLE_DEPTH` the fault `OutOfMemory` cannot happen (R103). -/
def Obligations.NoOutOfMemoryAtFullDepth : Prop :=
  ∀ s t : State, Inv s → s.params.tableDepth = 4096 → s.cause ≠ some .outOfMemory → step s = .next t →
    t.cause ≠ some .outOfMemory

/-- O53. Where the sub-block boundaries fall among the data bytes makes no difference to a `SYMBOL` step (R86): not to
one that does not end the run, and where both sources reach a terminator not to one that does. The two steps make the
same pixel writes in the same order and leave the same state but for what is left of the framing and the bytes seen
on the source's port. -/
def Obligations.FramingMakesNoDifference : Prop :=
  ∀ (s t : State) (e : List EnvEvent) (rem : BitVec 8) (bytes : List Byte), Inv s → blockTurn s e →
    s.state = .busy → s.phase = .symbol → dataBytes rem.toNat bytes = dataBytes s.subrem.toNat s.bs →
    step s = .next t →
    t.state = .busy ∨
      ((afterTerminator s.subrem.toNat s.bs).isSome = true ∧ (afterTerminator rem.toNat bytes).isSome = true) →
    ∃ rem' bytes' ports',
      step { s with subrem := rem, bs := bytes } =
        .next { t with subrem := rem', bs := bytes', ports := ports' } ∧
      writesSeen ports' = writesSeen t.ports ∧
      (t.state = .busy →
        dataBytes rem'.toNat bytes' = dataBytes t.subrem.toNat t.bs ∧
        afterTerminator rem'.toNat bytes' = afterTerminator rem.toNat bytes ∧
        afterTerminator t.subrem.toNat t.bs = afterTerminator s.subrem.toNat s.bs)

/-- O54. Outside `BUSY` no step of the block is enabled: its turn changes nothing (R131; log 15). -/
def Obligations.NothingEnabledOutsideBusy : Prop :=
  ∀ (s : State) (e : List EnvEvent), blockTurn s e → s.state ≠ .busy → step s = .next { s with env := e }

/-- O55. What is seen on the two ports (R5, R51): in a step of the block the bytes are consumed in the order of the
source, all of them before the pixel writes, and the writes in the order in which they reach the frame buffer; no
event of the environment is seen there. The record is the model's (log 19). -/
def Obligations.PortsShowStepOrder : Prop :=
  ∀ s t : State, step s = .next t →
    (∀ e, blockTurn s e → ∃ bytes ws,
      t.ports = wroteRecord ws ++ byteRecord bytes ++ s.ports ∧ s.bs = bytes ++ t.bs ∧ t.fb = applyWrites ws s.fb) ∧
    ((∀ e, ¬blockTurn s e) → t.ports = s.ports)
end

