-- ==== Sys2Proof/Laws/Memory.lean ====
section
/-!
SUPPORT. The laws of keyed storage, and that every memory operation keeps the canonical form.
-/

namespace Sys2Proof.Machine

variable {α : Type}

@[simp] theorem lookup_nil (k : Nat) : lookup ([] : List (Nat × α)) k = none := rfl

theorem lookup_cons (j : Nat) (v : α) (r : List (Nat × α)) (k : Nat) :
    lookup ((j, v) :: r) k = if j = k then some v else lookup r k := rfl

@[simp] theorem lookup_store_same (m : List (Nat × α)) (k : Nat) (v : α) : lookup (store m k v) k = some v := by
  induction m with
  | nil => simp [store, lookup_cons]
  | cons e r ih =>
    obtain ⟨j, u⟩ := e
    simp only [store]
    split
    · rename_i h
      simp [lookup_cons, Nat.ne_of_lt h, ih]
    · split <;> simp [lookup_cons]

theorem lookup_store_other (m : List (Nat × α)) {k a : Nat} (v : α) (h : a ≠ k) :
    lookup (store m k v) a = lookup m a := by
  induction m with
  | nil => simp [store, lookup_cons, Ne.symm h]
  | cons e r ih =>
    obtain ⟨j, u⟩ := e
    simp only [store]
    split
    · simp [lookup_cons, ih]
    · split
      · rename_i hj
        simp [lookup_cons, hj, Ne.symm h]
      · simp [lookup_cons, Ne.symm h]

/-- The two laws of a store in one: what a key holds afterwards. -/
theorem lookup_store (m : List (Nat × α)) (k a : Nat) (v : α) :
    lookup (store m k v) a = if a = k then some v else lookup m a := by
  split
  · rename_i h
    rw [h, lookup_store_same]
  · exact lookup_store_other m v ‹_›

theorem Memory.wf_cons (j : Nat) (v : α) (r : List (Nat × α)) :
    Memory.wf ((j, v) :: r) = true ↔ (∀ e ∈ r, j < e.1) ∧ Memory.wf r = true := by
  induction r generalizing j v with
  | nil => simp [Memory.wf]
  | cons e r ih =>
    obtain ⟨k, u⟩ := e
    have hk := ih k u
    simp only [Memory.wf, Bool.and_eq_true, decide_eq_true_eq, List.mem_cons, forall_eq_or_imp]
    constructor
    · rintro ⟨hjk, hw⟩
      exact ⟨⟨hjk, fun e he => hjk.trans ((hk.1 hw).1 e he)⟩, hw⟩
    · rintro ⟨⟨hjk, _⟩, hw⟩
      exact ⟨hjk, hw⟩

theorem mem_store {m : List (Nat × α)} {k : Nat} {v : α} {e : Nat × α} (h : e ∈ store m k v) :
    e = (k, v) ∨ e ∈ m := by
  induction m with
  | nil => simpa [store] using h
  | cons d r ih =>
    obtain ⟨j, u⟩ := d
    simp only [store] at h
    split at h
    · rcases List.mem_cons.1 h with h | h
      · exact .inr (h ▸ List.mem_cons_self)
      · exact (ih h).imp id (List.mem_cons_of_mem _)
    · split at h
      · exact (List.mem_cons.1 h).imp id (List.mem_cons_of_mem _)
      · exact List.mem_cons.1 h

/-- A store keeps the canonical form. -/
theorem store_wf {m : List (Nat × α)} (h : Memory.wf m = true) (k : Nat) (v : α) :
    Memory.wf (store m k v) = true := by
  induction m with
  | nil => rfl
  | cons e r ih =>
    obtain ⟨j, u⟩ := e
    obtain ⟨hlt, hr⟩ := (Memory.wf_cons j u r).1 h
    simp only [store]
    split
    · rename_i hj
      refine (Memory.wf_cons j u _).2 ⟨fun e he => ?_, ih hr⟩
      rcases mem_store he with rfl | he
      · exact hj
      · exact hlt e he
    · split
      · rename_i hj
        subst hj
        exact (Memory.wf_cons _ v r).2 ⟨hlt, hr⟩
      · refine (Memory.wf_cons k v _).2 ⟨fun e he => ?_, h⟩
        rcases List.mem_cons.1 he with rfl | he
        · simp only; omega
        · have := hlt e he
          omega

/-- Dropping entries keeps the canonical form. -/
theorem filter_wf {m : List (Nat × α)} (h : Memory.wf m = true) (p : Nat × α → Bool) :
    Memory.wf (m.filter p) = true := by
  induction m with
  | nil => rfl
  | cons e r ih =>
    obtain ⟨j, u⟩ := e
    obtain ⟨hlt, hr⟩ := (Memory.wf_cons j u r).1 h
    rw [List.filter_cons]
    split
    · exact (Memory.wf_cons j u _).2 ⟨fun e he => hlt e (List.mem_filter.1 he).1, ih hr⟩
    · exact ih hr

theorem entriesBelow_wf {t : List (Nat × Entry)} (h : Memory.wf t = true) (n : Nat) :
    Memory.wf (entriesBelow n t) = true := filter_wf h _

theorem lookup_entriesBelow (n : Nat) (t : List (Nat × Entry)) (i : Nat) :
    lookup (entriesBelow n t) i = if i < n then lookup t i else none := by
  induction t with
  | nil => simp [entriesBelow]
  | cons e r ih =>
    obtain ⟨j, u⟩ := e
    simp only [entriesBelow] at ih ⊢
    by_cases hj : j < n
    · simp only [List.filter_cons, hj, decide_true, if_true, lookup_cons, ih]
      split
      · rename_i h
        simp [← h, hj]
      · rfl
    · simp only [List.filter_cons, hj, decide_false, Bool.false_eq_true, if_false, ih, lookup_cons]
      split
      · rename_i h
        simp [show j ≠ i by omega]
      · rfl

theorem storeSuffix_wf {t : List (Nat × Entry)} (h : Memory.wf t = true) (i : Nat) (v : Byte) :
    Memory.wf (storeSuffix t i v) = true := by
  unfold storeSuffix
  split
  · exact store_wf h _ _
  · exact h

/-- The repair writes the suffix alone, of that entry alone. -/
theorem lookup_storeSuffix (t : List (Nat × Entry)) (i a : Nat) (v : Byte) :
    lookup (storeSuffix t i v) a =
      if a = i then (lookup t i).map fun e => { e with suffix := v } else lookup t a := by
  unfold storeSuffix
  cases h : lookup t i with
  | none =>
    simp only [Option.map_none]
    split
    · rename_i ha
      rw [ha, h]
    · rfl
  | some e => simp [lookup_store]

theorem lookup_map_range (f : Nat → α) (n a : Nat) :
    lookup ((List.range n).map fun k => (k, f k)) a = if a < n then some (f a) else none := by
  induction n with
  | zero => simp
  | succ n ih =>
    have happ : ∀ (m : List (Nat × α)) (k : Nat) (v : α),
        lookup (m ++ [(k, v)]) a = (lookup m a).or (if k = a then some v else none) := by
      intro m k v
      induction m with
      | nil => simp [lookup_cons]
      | cons e r ihr =>
        obtain ⟨j, u⟩ := e
        simp only [List.cons_append, lookup_cons, ihr]
        split <;> simp
    rw [List.range_succ, List.map_append, List.map_singleton, happ, ih]
    by_cases h : a < n
    · simp [h, Nat.lt_succ_of_lt h]
    · by_cases h' : n = a
      · subst h'
        simp
      · simp [h, h', show ¬ a < n + 1 by omega]

theorem map_range_wf (f : Nat → α) (n : Nat) :
    Memory.wf ((List.range n).map fun k => (k, f k)) = true := by
  have hgen : ∀ (l : List Nat), l.Pairwise (· < ·) → Memory.wf (l.map fun k => (k, f k)) = true := by
    intro l hl
    induction l with
    | nil => rfl
    | cons k r ih =>
      obtain ⟨h1, h2⟩ := List.pairwise_cons.1 hl
      refine (Memory.wf_cons k (f k) _).2 ⟨fun e he => ?_, ih h2⟩
      obtain ⟨j, hj, rfl⟩ := List.mem_map.1 he
      exact h1 j hj
  exact hgen _ List.pairwise_lt_range

theorem lookup_rootEntries (size i : Nat) :
    lookup (rootEntries size) i =
      if i < 2 ^ size then some { len := 1, pfx := none, suffix := BitVec.ofNat 8 i } else none :=
  lookup_map_range _ _ _

theorem rootEntries_wf (size : Nat) : Memory.wf (rootEntries size) = true := map_range_wf _ _

theorem freePixels_wf (s : State) (n : Nat) {fb : List Host.Cell} (h : Memory.wf fb = true) :
    Memory.wf (freePixels s n fb) = true := by
  induction n generalizing fb with
  | zero => exact h
  | succ p ih =>
    simp only [freePixels]
    split
    · exact ih (store_wf h _ _)
    · exact ih h

theorem frameAfterReset_wf {s : State} (h : Memory.wf s.fb = true) : Memory.wf (frameAfterReset s) = true := by
  unfold frameAfterReset
  split
  · exact freePixels_wf s _ h
  · exact h

/-- The reset state's memories are in canonical form. -/
theorem reset_memory_wf : Memory.wf State.reset.fb = true ∧ Memory.wf State.reset.table = true := ⟨rfl, rfl⟩

end Sys2Proof.Machine
end

