-- ==== Sys2Proof/Laws/State.lean ====
section
/-!
SUPPORT. One lemma per field per named update of the state.
-/

namespace Sys2Proof.Machine

/-! ## `endStep` -/

@[simp] theorem endStep_state (s : State) : (endStep s).state = s.state := rfl
@[simp] theorem endStep_cause (s : State) : (endStep s).cause = s.cause := rfl
@[simp] theorem endStep_trail (s : State) : (endStep s).trail = s.trail := rfl
@[simp] theorem endStep_x (s : State) : (endStep s).x = s.x := rfl
@[simp] theorem endStep_y (s : State) : (endStep s).y = s.y := rfl
@[simp] theorem endStep_w (s : State) : (endStep s).w = s.w := rfl
@[simp] theorem endStep_cw (s : State) : (endStep s).cw = s.cw := rfl
@[simp] theorem endStep_ch (s : State) : (endStep s).ch = s.ch := rfl
@[simp] theorem endStep_off (s : State) : (endStep s).off = s.off := rfl
@[simp] theorem endStep_info (s : State) : (endStep s).info = s.info := rfl
@[simp] theorem endStep_phase (s : State) : (endStep s).phase = s.phase := rfl
@[simp] theorem endStep_size (s : State) : (endStep s).size = s.size := rfl
@[simp] theorem endStep_width (s : State) : (endStep s).width = s.width := rfl
@[simp] theorem endStep_nent (s : State) : (endStep s).nent = s.nent := rfl
@[simp] theorem endStep_full (s : State) : (endStep s).full = s.full := rfl
@[simp] theorem endStep_hasPrev (s : State) : (endStep s).hasPrev = s.hasPrev := rfl
@[simp] theorem endStep_prevCode (s : State) : (endStep s).prevCode = s.prevCode := rfl
@[simp] theorem endStep_prevLen (s : State) : (endStep s).prevLen = s.prevLen := rfl
@[simp] theorem endStep_prevFirst (s : State) : (endStep s).prevFirst = s.prevFirst := rfl
@[simp] theorem endStep_cur (s : State) : (endStep s).cur = s.cur := rfl
@[simp] theorem endStep_shift (s : State) : (endStep s).shift = s.shift := rfl
@[simp] theorem endStep_subrem (s : State) : (endStep s).subrem = s.subrem := rfl
@[simp] theorem endStep_table (s : State) : (endStep s).table = s.table := rfl
@[simp] theorem endStep_bs (s : State) : (endStep s).bs = s.bs := rfl
@[simp] theorem endStep_fb (s : State) : (endStep s).fb = s.fb := rfl
@[simp] theorem endStep_flight (s : State) : (endStep s).flight = Flight.rest := rfl
@[simp] theorem endStep_params (s : State) : (endStep s).params = s.params := rfl
@[simp] theorem endStep_env (s : State) : (endStep s).env = s.env := rfl
@[simp] theorem endStep_hostData (s : State) : (endStep s).hostData = s.hostData := rfl
@[simp] theorem endStep_freeCtr (s : State) : (endStep s).freeCtr = s.freeCtr := rfl
@[simp] theorem endStep_ports (s : State) : (endStep s).ports = s.ports := rfl

/-! ## `faulted` -/

@[simp] theorem faulted_state (c : Cause) (n : Nat) (s : State) : (faulted c n s).state = .fault := rfl
@[simp] theorem faulted_cause (c : Cause) (n : Nat) (s : State) : (faulted c n s).cause = some c := rfl
@[simp] theorem faulted_trail (c : Cause) (n : Nat) (s : State) : (faulted c n s).trail = s.trail := rfl
@[simp] theorem faulted_x (c : Cause) (n : Nat) (s : State) : (faulted c n s).x = s.x := rfl
@[simp] theorem faulted_y (c : Cause) (n : Nat) (s : State) : (faulted c n s).y = s.y := rfl
@[simp] theorem faulted_w (c : Cause) (n : Nat) (s : State) : (faulted c n s).w = s.w := rfl
@[simp] theorem faulted_cw (c : Cause) (n : Nat) (s : State) : (faulted c n s).cw = s.cw := rfl
@[simp] theorem faulted_ch (c : Cause) (n : Nat) (s : State) : (faulted c n s).ch = s.ch := rfl
@[simp] theorem faulted_off (c : Cause) (n : Nat) (s : State) : (faulted c n s).off = s.off := rfl
@[simp] theorem faulted_info (c : Cause) (n : Nat) (s : State) : (faulted c n s).info = BitVec.ofNat 32 n := rfl
@[simp] theorem faulted_phase (c : Cause) (n : Nat) (s : State) : (faulted c n s).phase = s.phase := rfl
@[simp] theorem faulted_size (c : Cause) (n : Nat) (s : State) : (faulted c n s).size = s.size := rfl
@[simp] theorem faulted_width (c : Cause) (n : Nat) (s : State) : (faulted c n s).width = s.width := rfl
@[simp] theorem faulted_nent (c : Cause) (n : Nat) (s : State) : (faulted c n s).nent = s.nent := rfl
@[simp] theorem faulted_full (c : Cause) (n : Nat) (s : State) : (faulted c n s).full = s.full := rfl
@[simp] theorem faulted_hasPrev (c : Cause) (n : Nat) (s : State) : (faulted c n s).hasPrev = s.hasPrev := rfl
@[simp] theorem faulted_prevCode (c : Cause) (n : Nat) (s : State) : (faulted c n s).prevCode = s.prevCode := rfl
@[simp] theorem faulted_prevLen (c : Cause) (n : Nat) (s : State) : (faulted c n s).prevLen = s.prevLen := rfl
@[simp] theorem faulted_prevFirst (c : Cause) (n : Nat) (s : State) : (faulted c n s).prevFirst = s.prevFirst := rfl
@[simp] theorem faulted_cur (c : Cause) (n : Nat) (s : State) : (faulted c n s).cur = s.cur := rfl
@[simp] theorem faulted_shift (c : Cause) (n : Nat) (s : State) : (faulted c n s).shift = s.shift := rfl
@[simp] theorem faulted_subrem (c : Cause) (n : Nat) (s : State) : (faulted c n s).subrem = s.subrem := rfl
@[simp] theorem faulted_table (c : Cause) (n : Nat) (s : State) : (faulted c n s).table = [] := rfl
@[simp] theorem faulted_bs (c : Cause) (n : Nat) (s : State) : (faulted c n s).bs = s.bs := rfl
@[simp] theorem faulted_fb (c : Cause) (n : Nat) (s : State) : (faulted c n s).fb = s.fb := rfl
@[simp] theorem faulted_flight (c : Cause) (n : Nat) (s : State) : (faulted c n s).flight = Flight.rest := rfl
@[simp] theorem faulted_params (c : Cause) (n : Nat) (s : State) : (faulted c n s).params = s.params := rfl
@[simp] theorem faulted_env (c : Cause) (n : Nat) (s : State) : (faulted c n s).env = s.env := rfl
@[simp] theorem faulted_hostData (c : Cause) (n : Nat) (s : State) : (faulted c n s).hostData = s.hostData := rfl
@[simp] theorem faulted_freeCtr (c : Cause) (n : Nat) (s : State) : (faulted c n s).freeCtr = s.freeCtr := rfl
@[simp] theorem faulted_ports (c : Cause) (n : Nat) (s : State) : (faulted c n s).ports = s.ports := rfl

/-! ## `finished` -/

@[simp] theorem finished_state (s : State) : (finished s).state = .done := rfl
@[simp] theorem finished_cause (s : State) : (finished s).cause = s.cause := rfl
@[simp] theorem finished_trail (s : State) : (finished s).trail = s.trail := rfl
@[simp] theorem finished_x (s : State) : (finished s).x = s.x := rfl
@[simp] theorem finished_y (s : State) : (finished s).y = s.y := rfl
@[simp] theorem finished_w (s : State) : (finished s).w = s.w := rfl
@[simp] theorem finished_cw (s : State) : (finished s).cw = s.cw := rfl
@[simp] theorem finished_ch (s : State) : (finished s).ch = s.ch := rfl
@[simp] theorem finished_off (s : State) : (finished s).off = s.off := rfl
@[simp] theorem finished_info (s : State) : (finished s).info = s.info := rfl
@[simp] theorem finished_phase (s : State) : (finished s).phase = s.phase := rfl
@[simp] theorem finished_size (s : State) : (finished s).size = s.size := rfl
@[simp] theorem finished_width (s : State) : (finished s).width = s.width := rfl
@[simp] theorem finished_nent (s : State) : (finished s).nent = s.nent := rfl
@[simp] theorem finished_full (s : State) : (finished s).full = s.full := rfl
@[simp] theorem finished_hasPrev (s : State) : (finished s).hasPrev = s.hasPrev := rfl
@[simp] theorem finished_prevCode (s : State) : (finished s).prevCode = s.prevCode := rfl
@[simp] theorem finished_prevLen (s : State) : (finished s).prevLen = s.prevLen := rfl
@[simp] theorem finished_prevFirst (s : State) : (finished s).prevFirst = s.prevFirst := rfl
@[simp] theorem finished_cur (s : State) : (finished s).cur = s.cur := rfl
@[simp] theorem finished_shift (s : State) : (finished s).shift = s.shift := rfl
@[simp] theorem finished_subrem (s : State) : (finished s).subrem = s.subrem := rfl
@[simp] theorem finished_table (s : State) : (finished s).table = [] := rfl
@[simp] theorem finished_bs (s : State) : (finished s).bs = s.bs := rfl
@[simp] theorem finished_fb (s : State) : (finished s).fb = s.fb := rfl
@[simp] theorem finished_flight (s : State) : (finished s).flight = Flight.rest := rfl
@[simp] theorem finished_params (s : State) : (finished s).params = s.params := rfl
@[simp] theorem finished_env (s : State) : (finished s).env = s.env := rfl
@[simp] theorem finished_hostData (s : State) : (finished s).hostData = s.hostData := rfl
@[simp] theorem finished_freeCtr (s : State) : (finished s).freeCtr = s.freeCtr := rfl
@[simp] theorem finished_ports (s : State) : (finished s).ports = s.ports := rfl

/-! ## `started` -/

@[simp] theorem started_state (s : State) : (started s).state = .busy := rfl
@[simp] theorem started_cause (s : State) : (started s).cause = none := rfl
@[simp] theorem started_trail (s : State) : (started s).trail = false := rfl
@[simp] theorem started_x (s : State) : (started s).x = s.x := rfl
@[simp] theorem started_y (s : State) : (started s).y = s.y := rfl
@[simp] theorem started_w (s : State) : (started s).w = s.w := rfl
@[simp] theorem started_cw (s : State) : (started s).cw = s.cw := rfl
@[simp] theorem started_ch (s : State) : (started s).ch = s.ch := rfl
@[simp] theorem started_off (s : State) : (started s).off = 0#32 := rfl
@[simp] theorem started_info (s : State) : (started s).info = 0#32 := rfl
@[simp] theorem started_phase (s : State) : (started s).phase = .init := rfl
@[simp] theorem started_size (s : State) : (started s).size = 0#4 := rfl
@[simp] theorem started_width (s : State) : (started s).width = 0#4 := rfl
@[simp] theorem started_nent (s : State) : (started s).nent = 0#13 := rfl
@[simp] theorem started_full (s : State) : (started s).full = false := rfl
@[simp] theorem started_hasPrev (s : State) : (started s).hasPrev = false := rfl
@[simp] theorem started_prevCode (s : State) : (started s).prevCode = 0#12 := rfl
@[simp] theorem started_prevLen (s : State) : (started s).prevLen = 0#13 := rfl
@[simp] theorem started_prevFirst (s : State) : (started s).prevFirst = 0#8 := rfl
@[simp] theorem started_cur (s : State) : (started s).cur = 0#8 := rfl
@[simp] theorem started_shift (s : State) : (started s).shift = 0#3 := rfl
@[simp] theorem started_subrem (s : State) : (started s).subrem = 0#8 := rfl
@[simp] theorem started_table (s : State) : (started s).table = s.table := rfl
@[simp] theorem started_bs (s : State) : (started s).bs = s.bs := rfl
@[simp] theorem started_fb (s : State) : (started s).fb = s.fb := rfl
@[simp] theorem started_flight (s : State) : (started s).flight = s.flight := rfl
@[simp] theorem started_params (s : State) : (started s).params = s.params := rfl
@[simp] theorem started_env (s : State) : (started s).env = s.env := rfl
@[simp] theorem started_hostData (s : State) : (started s).hostData = s.hostData := rfl
@[simp] theorem started_freeCtr (s : State) : (started s).freeCtr = s.freeCtr := rfl
@[simp] theorem started_ports (s : State) : (started s).ports = s.ports := rfl

/-! ## `insertEntry` -/

@[simp] theorem insertEntry_state (s : State) : (insertEntry s).state = s.state := rfl
@[simp] theorem insertEntry_cause (s : State) : (insertEntry s).cause = s.cause := rfl
@[simp] theorem insertEntry_trail (s : State) : (insertEntry s).trail = s.trail := rfl
@[simp] theorem insertEntry_x (s : State) : (insertEntry s).x = s.x := rfl
@[simp] theorem insertEntry_y (s : State) : (insertEntry s).y = s.y := rfl
@[simp] theorem insertEntry_w (s : State) : (insertEntry s).w = s.w := rfl
@[simp] theorem insertEntry_cw (s : State) : (insertEntry s).cw = s.cw := rfl
@[simp] theorem insertEntry_ch (s : State) : (insertEntry s).ch = s.ch := rfl
@[simp] theorem insertEntry_off (s : State) : (insertEntry s).off = s.off := rfl
@[simp] theorem insertEntry_info (s : State) : (insertEntry s).info = s.info := rfl
@[simp] theorem insertEntry_phase (s : State) : (insertEntry s).phase = s.phase := rfl
@[simp] theorem insertEntry_size (s : State) : (insertEntry s).size = s.size := rfl
@[simp] theorem insertEntry_width (s : State) : (insertEntry s).width = s.width := rfl
@[simp] theorem insertEntry_nent (s : State) : (insertEntry s).nent = s.nent + 1#13 := rfl
@[simp] theorem insertEntry_full (s : State) : (insertEntry s).full = fullAt (s.nent + 1#13) := rfl
@[simp] theorem insertEntry_hasPrev (s : State) : (insertEntry s).hasPrev = s.hasPrev := rfl
@[simp] theorem insertEntry_prevCode (s : State) : (insertEntry s).prevCode = s.prevCode := rfl
@[simp] theorem insertEntry_prevLen (s : State) : (insertEntry s).prevLen = s.prevLen := rfl
@[simp] theorem insertEntry_prevFirst (s : State) : (insertEntry s).prevFirst = s.prevFirst := rfl
@[simp] theorem insertEntry_cur (s : State) : (insertEntry s).cur = s.cur := rfl
@[simp] theorem insertEntry_shift (s : State) : (insertEntry s).shift = s.shift := rfl
@[simp] theorem insertEntry_subrem (s : State) : (insertEntry s).subrem = s.subrem := rfl
@[simp] theorem insertEntry_table (s : State) : (insertEntry s).table = store s.table s.nent.toNat (newEntry s) := rfl
@[simp] theorem insertEntry_bs (s : State) : (insertEntry s).bs = s.bs := rfl
@[simp] theorem insertEntry_fb (s : State) : (insertEntry s).fb = s.fb := rfl
@[simp] theorem insertEntry_flight (s : State) : (insertEntry s).flight = { Flight.rest with inserted := true, grow := growAt (s.nent + 1#13) s.width } := rfl
@[simp] theorem insertEntry_params (s : State) : (insertEntry s).params = s.params := rfl
@[simp] theorem insertEntry_env (s : State) : (insertEntry s).env = s.env := rfl
@[simp] theorem insertEntry_hostData (s : State) : (insertEntry s).hostData = s.hostData := rfl
@[simp] theorem insertEntry_freeCtr (s : State) : (insertEntry s).freeCtr = s.freeCtr := rfl
@[simp] theorem insertEntry_ports (s : State) : (insertEntry s).ports = s.ports := rfl

/-! ## `freshRegisters` -/

@[simp] theorem freshRegisters_state (k : Nat) (s : State) : (freshRegisters k s).state = s.state := rfl
@[simp] theorem freshRegisters_cause (k : Nat) (s : State) : (freshRegisters k s).cause = s.cause := rfl
@[simp] theorem freshRegisters_trail (k : Nat) (s : State) : (freshRegisters k s).trail = s.trail := rfl
@[simp] theorem freshRegisters_x (k : Nat) (s : State) : (freshRegisters k s).x = s.x := rfl
@[simp] theorem freshRegisters_y (k : Nat) (s : State) : (freshRegisters k s).y = s.y := rfl
@[simp] theorem freshRegisters_w (k : Nat) (s : State) : (freshRegisters k s).w = s.w := rfl
@[simp] theorem freshRegisters_cw (k : Nat) (s : State) : (freshRegisters k s).cw = s.cw := rfl
@[simp] theorem freshRegisters_ch (k : Nat) (s : State) : (freshRegisters k s).ch = s.ch := rfl
@[simp] theorem freshRegisters_off (k : Nat) (s : State) : (freshRegisters k s).off = s.off := rfl
@[simp] theorem freshRegisters_info (k : Nat) (s : State) : (freshRegisters k s).info = s.info := rfl
@[simp] theorem freshRegisters_phase (k : Nat) (s : State) : (freshRegisters k s).phase = s.phase := rfl
@[simp] theorem freshRegisters_size (k : Nat) (s : State) : (freshRegisters k s).size = s.size := rfl
@[simp] theorem freshRegisters_width (k : Nat) (s : State) : (freshRegisters k s).width = BitVec.ofNat 4 (k + 1) := rfl
@[simp] theorem freshRegisters_nent (k : Nat) (s : State) : (freshRegisters k s).nent = BitVec.ofNat 13 (2 ^ k + 2) := rfl
@[simp] theorem freshRegisters_full (k : Nat) (s : State) : (freshRegisters k s).full = false := rfl
@[simp] theorem freshRegisters_hasPrev (k : Nat) (s : State) : (freshRegisters k s).hasPrev = false := rfl
@[simp] theorem freshRegisters_prevCode (k : Nat) (s : State) : (freshRegisters k s).prevCode = s.prevCode := rfl
@[simp] theorem freshRegisters_prevLen (k : Nat) (s : State) : (freshRegisters k s).prevLen = s.prevLen := rfl
@[simp] theorem freshRegisters_prevFirst (k : Nat) (s : State) : (freshRegisters k s).prevFirst = s.prevFirst := rfl
@[simp] theorem freshRegisters_cur (k : Nat) (s : State) : (freshRegisters k s).cur = s.cur := rfl
@[simp] theorem freshRegisters_shift (k : Nat) (s : State) : (freshRegisters k s).shift = s.shift := rfl
@[simp] theorem freshRegisters_subrem (k : Nat) (s : State) : (freshRegisters k s).subrem = s.subrem := rfl
@[simp] theorem freshRegisters_table (k : Nat) (s : State) : (freshRegisters k s).table = s.table := rfl
@[simp] theorem freshRegisters_bs (k : Nat) (s : State) : (freshRegisters k s).bs = s.bs := rfl
@[simp] theorem freshRegisters_fb (k : Nat) (s : State) : (freshRegisters k s).fb = s.fb := rfl
@[simp] theorem freshRegisters_flight (k : Nat) (s : State) : (freshRegisters k s).flight = s.flight := rfl
@[simp] theorem freshRegisters_params (k : Nat) (s : State) : (freshRegisters k s).params = s.params := rfl
@[simp] theorem freshRegisters_env (k : Nat) (s : State) : (freshRegisters k s).env = s.env := rfl
@[simp] theorem freshRegisters_hostData (k : Nat) (s : State) : (freshRegisters k s).hostData = s.hostData := rfl
@[simp] theorem freshRegisters_freeCtr (k : Nat) (s : State) : (freshRegisters k s).freeCtr = s.freeCtr := rfl
@[simp] theorem freshRegisters_ports (k : Nat) (s : State) : (freshRegisters k s).ports = s.ports := rfl

/-! ## `seeded` -/

@[simp] theorem seeded_state (k : Nat) (s : State) : (seeded k s).state = s.state := rfl
@[simp] theorem seeded_cause (k : Nat) (s : State) : (seeded k s).cause = s.cause := rfl
@[simp] theorem seeded_trail (k : Nat) (s : State) : (seeded k s).trail = s.trail := rfl
@[simp] theorem seeded_x (k : Nat) (s : State) : (seeded k s).x = s.x := rfl
@[simp] theorem seeded_y (k : Nat) (s : State) : (seeded k s).y = s.y := rfl
@[simp] theorem seeded_w (k : Nat) (s : State) : (seeded k s).w = s.w := rfl
@[simp] theorem seeded_cw (k : Nat) (s : State) : (seeded k s).cw = s.cw := rfl
@[simp] theorem seeded_ch (k : Nat) (s : State) : (seeded k s).ch = s.ch := rfl
@[simp] theorem seeded_off (k : Nat) (s : State) : (seeded k s).off = s.off := rfl
@[simp] theorem seeded_info (k : Nat) (s : State) : (seeded k s).info = s.info := rfl
@[simp] theorem seeded_phase (k : Nat) (s : State) : (seeded k s).phase = .symbol := rfl
@[simp] theorem seeded_size (k : Nat) (s : State) : (seeded k s).size = BitVec.ofNat 4 k := rfl
@[simp] theorem seeded_width (k : Nat) (s : State) : (seeded k s).width = BitVec.ofNat 4 (k + 1) := rfl
@[simp] theorem seeded_nent (k : Nat) (s : State) : (seeded k s).nent = BitVec.ofNat 13 (2 ^ k + 2) := rfl
@[simp] theorem seeded_full (k : Nat) (s : State) : (seeded k s).full = false := rfl
@[simp] theorem seeded_hasPrev (k : Nat) (s : State) : (seeded k s).hasPrev = false := rfl
@[simp] theorem seeded_prevCode (k : Nat) (s : State) : (seeded k s).prevCode = s.prevCode := rfl
@[simp] theorem seeded_prevLen (k : Nat) (s : State) : (seeded k s).prevLen = s.prevLen := rfl
@[simp] theorem seeded_prevFirst (k : Nat) (s : State) : (seeded k s).prevFirst = s.prevFirst := rfl
@[simp] theorem seeded_cur (k : Nat) (s : State) : (seeded k s).cur = s.cur := rfl
@[simp] theorem seeded_shift (k : Nat) (s : State) : (seeded k s).shift = s.shift := rfl
@[simp] theorem seeded_subrem (k : Nat) (s : State) : (seeded k s).subrem = s.subrem := rfl
@[simp] theorem seeded_table (k : Nat) (s : State) : (seeded k s).table = rootEntries k := rfl
@[simp] theorem seeded_bs (k : Nat) (s : State) : (seeded k s).bs = s.bs := rfl
@[simp] theorem seeded_fb (k : Nat) (s : State) : (seeded k s).fb = s.fb := rfl
@[simp] theorem seeded_flight (k : Nat) (s : State) : (seeded k s).flight = Flight.rest := rfl
@[simp] theorem seeded_params (k : Nat) (s : State) : (seeded k s).params = s.params := rfl
@[simp] theorem seeded_env (k : Nat) (s : State) : (seeded k s).env = s.env := rfl
@[simp] theorem seeded_hostData (k : Nat) (s : State) : (seeded k s).hostData = s.hostData := rfl
@[simp] theorem seeded_freeCtr (k : Nat) (s : State) : (seeded k s).freeCtr = s.freeCtr := rfl
@[simp] theorem seeded_ports (k : Nat) (s : State) : (seeded k s).ports = s.ports := rfl

/-! ## `clearReset` -/

@[simp] theorem clearReset_state (k : Nat) (s : State) : (clearReset k s).state = s.state := rfl
@[simp] theorem clearReset_cause (k : Nat) (s : State) : (clearReset k s).cause = s.cause := rfl
@[simp] theorem clearReset_trail (k : Nat) (s : State) : (clearReset k s).trail = s.trail := rfl
@[simp] theorem clearReset_x (k : Nat) (s : State) : (clearReset k s).x = s.x := rfl
@[simp] theorem clearReset_y (k : Nat) (s : State) : (clearReset k s).y = s.y := rfl
@[simp] theorem clearReset_w (k : Nat) (s : State) : (clearReset k s).w = s.w := rfl
@[simp] theorem clearReset_cw (k : Nat) (s : State) : (clearReset k s).cw = s.cw := rfl
@[simp] theorem clearReset_ch (k : Nat) (s : State) : (clearReset k s).ch = s.ch := rfl
@[simp] theorem clearReset_off (k : Nat) (s : State) : (clearReset k s).off = s.off := rfl
@[simp] theorem clearReset_info (k : Nat) (s : State) : (clearReset k s).info = s.info := rfl
@[simp] theorem clearReset_phase (k : Nat) (s : State) : (clearReset k s).phase = s.phase := rfl
@[simp] theorem clearReset_size (k : Nat) (s : State) : (clearReset k s).size = s.size := rfl
@[simp] theorem clearReset_width (k : Nat) (s : State) : (clearReset k s).width = BitVec.ofNat 4 (k + 1) := rfl
@[simp] theorem clearReset_nent (k : Nat) (s : State) : (clearReset k s).nent = BitVec.ofNat 13 (2 ^ k + 2) := rfl
@[simp] theorem clearReset_full (k : Nat) (s : State) : (clearReset k s).full = false := rfl
@[simp] theorem clearReset_hasPrev (k : Nat) (s : State) : (clearReset k s).hasPrev = false := rfl
@[simp] theorem clearReset_prevCode (k : Nat) (s : State) : (clearReset k s).prevCode = s.prevCode := rfl
@[simp] theorem clearReset_prevLen (k : Nat) (s : State) : (clearReset k s).prevLen = s.prevLen := rfl
@[simp] theorem clearReset_prevFirst (k : Nat) (s : State) : (clearReset k s).prevFirst = s.prevFirst := rfl
@[simp] theorem clearReset_cur (k : Nat) (s : State) : (clearReset k s).cur = s.cur := rfl
@[simp] theorem clearReset_shift (k : Nat) (s : State) : (clearReset k s).shift = s.shift := rfl
@[simp] theorem clearReset_subrem (k : Nat) (s : State) : (clearReset k s).subrem = s.subrem := rfl
@[simp] theorem clearReset_table (k : Nat) (s : State) : (clearReset k s).table = entriesBelow (2 ^ k) s.table := rfl
@[simp] theorem clearReset_bs (k : Nat) (s : State) : (clearReset k s).bs = s.bs := rfl
@[simp] theorem clearReset_fb (k : Nat) (s : State) : (clearReset k s).fb = s.fb := rfl
@[simp] theorem clearReset_flight (k : Nat) (s : State) : (clearReset k s).flight = Flight.rest := rfl
@[simp] theorem clearReset_params (k : Nat) (s : State) : (clearReset k s).params = s.params := rfl
@[simp] theorem clearReset_env (k : Nat) (s : State) : (clearReset k s).env = s.env := rfl
@[simp] theorem clearReset_hostData (k : Nat) (s : State) : (clearReset k s).hostData = s.hostData := rfl
@[simp] theorem clearReset_freeCtr (k : Nat) (s : State) : (clearReset k s).freeCtr = s.freeCtr := rfl
@[simp] theorem clearReset_ports (k : Nat) (s : State) : (clearReset k s).ports = s.ports := rfl

/-! ## `growWidth` -/

@[simp] theorem growWidth_state (s : State) : (growWidth s).state = s.state := by
  unfold growWidth; split <;> rfl
@[simp] theorem growWidth_cause (s : State) : (growWidth s).cause = s.cause := by
  unfold growWidth; split <;> rfl
@[simp] theorem growWidth_trail (s : State) : (growWidth s).trail = s.trail := by
  unfold growWidth; split <;> rfl
@[simp] theorem growWidth_x (s : State) : (growWidth s).x = s.x := by
  unfold growWidth; split <;> rfl
@[simp] theorem growWidth_y (s : State) : (growWidth s).y = s.y := by
  unfold growWidth; split <;> rfl
@[simp] theorem growWidth_w (s : State) : (growWidth s).w = s.w := by
  unfold growWidth; split <;> rfl
@[simp] theorem growWidth_cw (s : State) : (growWidth s).cw = s.cw := by
  unfold growWidth; split <;> rfl
@[simp] theorem growWidth_ch (s : State) : (growWidth s).ch = s.ch := by
  unfold growWidth; split <;> rfl
@[simp] theorem growWidth_off (s : State) : (growWidth s).off = s.off := by
  unfold growWidth; split <;> rfl
@[simp] theorem growWidth_info (s : State) : (growWidth s).info = s.info := by
  unfold growWidth; split <;> rfl
@[simp] theorem growWidth_phase (s : State) : (growWidth s).phase = s.phase := by
  unfold growWidth; split <;> rfl
@[simp] theorem growWidth_size (s : State) : (growWidth s).size = s.size := by
  unfold growWidth; split <;> rfl
@[simp] theorem growWidth_width (s : State) : (growWidth s).width = if s.flight.grow then s.width + 1#4 else s.width := by
  unfold growWidth; split <;> rfl
@[simp] theorem growWidth_nent (s : State) : (growWidth s).nent = s.nent := by
  unfold growWidth; split <;> rfl
@[simp] theorem growWidth_full (s : State) : (growWidth s).full = s.full := by
  unfold growWidth; split <;> rfl
@[simp] theorem growWidth_hasPrev (s : State) : (growWidth s).hasPrev = s.hasPrev := by
  unfold growWidth; split <;> rfl
@[simp] theorem growWidth_prevCode (s : State) : (growWidth s).prevCode = s.prevCode := by
  unfold growWidth; split <;> rfl
@[simp] theorem growWidth_prevLen (s : State) : (growWidth s).prevLen = s.prevLen := by
  unfold growWidth; split <;> rfl
@[simp] theorem growWidth_prevFirst (s : State) : (growWidth s).prevFirst = s.prevFirst := by
  unfold growWidth; split <;> rfl
@[simp] theorem growWidth_cur (s : State) : (growWidth s).cur = s.cur := by
  unfold growWidth; split <;> rfl
@[simp] theorem growWidth_shift (s : State) : (growWidth s).shift = s.shift := by
  unfold growWidth; split <;> rfl
@[simp] theorem growWidth_subrem (s : State) : (growWidth s).subrem = s.subrem := by
  unfold growWidth; split <;> rfl
@[simp] theorem growWidth_table (s : State) : (growWidth s).table = s.table := by
  unfold growWidth; split <;> rfl
@[simp] theorem growWidth_bs (s : State) : (growWidth s).bs = s.bs := by
  unfold growWidth; split <;> rfl
@[simp] theorem growWidth_fb (s : State) : (growWidth s).fb = s.fb := by
  unfold growWidth; split <;> rfl
@[simp] theorem growWidth_flight (s : State) : (growWidth s).flight = s.flight := by
  unfold growWidth; split <;> rfl
@[simp] theorem growWidth_params (s : State) : (growWidth s).params = s.params := by
  unfold growWidth; split <;> rfl
@[simp] theorem growWidth_env (s : State) : (growWidth s).env = s.env := by
  unfold growWidth; split <;> rfl
@[simp] theorem growWidth_hostData (s : State) : (growWidth s).hostData = s.hostData := by
  unfold growWidth; split <;> rfl
@[simp] theorem growWidth_freeCtr (s : State) : (growWidth s).freeCtr = s.freeCtr := by
  unfold growWidth; split <;> rfl
@[simp] theorem growWidth_ports (s : State) : (growWidth s).ports = s.ports := by
  unfold growWidth; split <;> rfl

/-! ## `advance` -/

@[simp] theorem advance_state (n : BitVec 13) (s : State) : (advance n s).state = s.state := rfl
@[simp] theorem advance_cause (n : BitVec 13) (s : State) : (advance n s).cause = s.cause := rfl
@[simp] theorem advance_trail (n : BitVec 13) (s : State) : (advance n s).trail = s.trail := rfl
@[simp] theorem advance_x (n : BitVec 13) (s : State) : (advance n s).x = s.x := rfl
@[simp] theorem advance_y (n : BitVec 13) (s : State) : (advance n s).y = s.y := rfl
@[simp] theorem advance_w (n : BitVec 13) (s : State) : (advance n s).w = s.w := rfl
@[simp] theorem advance_cw (n : BitVec 13) (s : State) : (advance n s).cw = s.cw := rfl
@[simp] theorem advance_ch (n : BitVec 13) (s : State) : (advance n s).ch = s.ch := rfl
@[simp] theorem advance_off (n : BitVec 13) (s : State) : (advance n s).off = s.off + n.setWidth 32 := rfl
@[simp] theorem advance_info (n : BitVec 13) (s : State) : (advance n s).info = s.info := rfl
@[simp] theorem advance_phase (n : BitVec 13) (s : State) : (advance n s).phase = s.phase := rfl
@[simp] theorem advance_size (n : BitVec 13) (s : State) : (advance n s).size = s.size := rfl
@[simp] theorem advance_width (n : BitVec 13) (s : State) : (advance n s).width = s.width := rfl
@[simp] theorem advance_nent (n : BitVec 13) (s : State) : (advance n s).nent = s.nent := rfl
@[simp] theorem advance_full (n : BitVec 13) (s : State) : (advance n s).full = s.full := rfl
@[simp] theorem advance_hasPrev (n : BitVec 13) (s : State) : (advance n s).hasPrev = s.hasPrev := rfl
@[simp] theorem advance_prevCode (n : BitVec 13) (s : State) : (advance n s).prevCode = s.prevCode := rfl
@[simp] theorem advance_prevLen (n : BitVec 13) (s : State) : (advance n s).prevLen = s.prevLen := rfl
@[simp] theorem advance_prevFirst (n : BitVec 13) (s : State) : (advance n s).prevFirst = s.prevFirst := rfl
@[simp] theorem advance_cur (n : BitVec 13) (s : State) : (advance n s).cur = s.cur := rfl
@[simp] theorem advance_shift (n : BitVec 13) (s : State) : (advance n s).shift = s.shift := rfl
@[simp] theorem advance_subrem (n : BitVec 13) (s : State) : (advance n s).subrem = s.subrem := rfl
@[simp] theorem advance_table (n : BitVec 13) (s : State) : (advance n s).table = s.table := rfl
@[simp] theorem advance_bs (n : BitVec 13) (s : State) : (advance n s).bs = s.bs := rfl
@[simp] theorem advance_fb (n : BitVec 13) (s : State) : (advance n s).fb = s.fb := rfl
@[simp] theorem advance_flight (n : BitVec 13) (s : State) : (advance n s).flight = s.flight := rfl
@[simp] theorem advance_params (n : BitVec 13) (s : State) : (advance n s).params = s.params := rfl
@[simp] theorem advance_env (n : BitVec 13) (s : State) : (advance n s).env = s.env := rfl
@[simp] theorem advance_hostData (n : BitVec 13) (s : State) : (advance n s).hostData = s.hostData := rfl
@[simp] theorem advance_freeCtr (n : BitVec 13) (s : State) : (advance n s).freeCtr = s.freeCtr := rfl
@[simp] theorem advance_ports (n : BitVec 13) (s : State) : (advance n s).ports = s.ports := rfl

/-! ## `repair` -/

@[simp] theorem repair_state (v : Byte) (s : State) : (repair v s).state = s.state := by
  unfold repair; split <;> rfl
@[simp] theorem repair_cause (v : Byte) (s : State) : (repair v s).cause = s.cause := by
  unfold repair; split <;> rfl
@[simp] theorem repair_trail (v : Byte) (s : State) : (repair v s).trail = s.trail := by
  unfold repair; split <;> rfl
@[simp] theorem repair_x (v : Byte) (s : State) : (repair v s).x = s.x := by
  unfold repair; split <;> rfl
@[simp] theorem repair_y (v : Byte) (s : State) : (repair v s).y = s.y := by
  unfold repair; split <;> rfl
@[simp] theorem repair_w (v : Byte) (s : State) : (repair v s).w = s.w := by
  unfold repair; split <;> rfl
@[simp] theorem repair_cw (v : Byte) (s : State) : (repair v s).cw = s.cw := by
  unfold repair; split <;> rfl
@[simp] theorem repair_ch (v : Byte) (s : State) : (repair v s).ch = s.ch := by
  unfold repair; split <;> rfl
@[simp] theorem repair_off (v : Byte) (s : State) : (repair v s).off = s.off := by
  unfold repair; split <;> rfl
@[simp] theorem repair_info (v : Byte) (s : State) : (repair v s).info = s.info := by
  unfold repair; split <;> rfl
@[simp] theorem repair_phase (v : Byte) (s : State) : (repair v s).phase = s.phase := by
  unfold repair; split <;> rfl
@[simp] theorem repair_size (v : Byte) (s : State) : (repair v s).size = s.size := by
  unfold repair; split <;> rfl
@[simp] theorem repair_width (v : Byte) (s : State) : (repair v s).width = s.width := by
  unfold repair; split <;> rfl
@[simp] theorem repair_nent (v : Byte) (s : State) : (repair v s).nent = s.nent := by
  unfold repair; split <;> rfl
@[simp] theorem repair_full (v : Byte) (s : State) : (repair v s).full = s.full := by
  unfold repair; split <;> rfl
@[simp] theorem repair_hasPrev (v : Byte) (s : State) : (repair v s).hasPrev = s.hasPrev := by
  unfold repair; split <;> rfl
@[simp] theorem repair_prevCode (v : Byte) (s : State) : (repair v s).prevCode = s.prevCode := by
  unfold repair; split <;> rfl
@[simp] theorem repair_prevLen (v : Byte) (s : State) : (repair v s).prevLen = s.prevLen := by
  unfold repair; split <;> rfl
@[simp] theorem repair_prevFirst (v : Byte) (s : State) : (repair v s).prevFirst = s.prevFirst := by
  unfold repair; split <;> rfl
@[simp] theorem repair_cur (v : Byte) (s : State) : (repair v s).cur = s.cur := by
  unfold repair; split <;> rfl
@[simp] theorem repair_shift (v : Byte) (s : State) : (repair v s).shift = s.shift := by
  unfold repair; split <;> rfl
@[simp] theorem repair_subrem (v : Byte) (s : State) : (repair v s).subrem = s.subrem := by
  unfold repair; split <;> rfl
@[simp] theorem repair_table (v : Byte) (s : State) : (repair v s).table = if repairs s then storeSuffix s.table (s.nent.toNat - 1) v else s.table := by
  unfold repair; split <;> rfl
@[simp] theorem repair_bs (v : Byte) (s : State) : (repair v s).bs = s.bs := by
  unfold repair; split <;> rfl
@[simp] theorem repair_fb (v : Byte) (s : State) : (repair v s).fb = s.fb := by
  unfold repair; split <;> rfl
@[simp] theorem repair_flight (v : Byte) (s : State) : (repair v s).flight = s.flight := by
  unfold repair; split <;> rfl
@[simp] theorem repair_params (v : Byte) (s : State) : (repair v s).params = s.params := by
  unfold repair; split <;> rfl
@[simp] theorem repair_env (v : Byte) (s : State) : (repair v s).env = s.env := by
  unfold repair; split <;> rfl
@[simp] theorem repair_hostData (v : Byte) (s : State) : (repair v s).hostData = s.hostData := by
  unfold repair; split <;> rfl
@[simp] theorem repair_freeCtr (v : Byte) (s : State) : (repair v s).freeCtr = s.freeCtr := by
  unfold repair; split <;> rfl
@[simp] theorem repair_ports (v : Byte) (s : State) : (repair v s).ports = s.ports := by
  unfold repair; split <;> rfl

/-! ## `remember` -/

@[simp] theorem remember_state (c : Code) (n : BitVec 13) (v : Byte) (s : State) : (remember c n v s).state = s.state := rfl
@[simp] theorem remember_cause (c : Code) (n : BitVec 13) (v : Byte) (s : State) : (remember c n v s).cause = s.cause := rfl
@[simp] theorem remember_trail (c : Code) (n : BitVec 13) (v : Byte) (s : State) : (remember c n v s).trail = s.trail := rfl
@[simp] theorem remember_x (c : Code) (n : BitVec 13) (v : Byte) (s : State) : (remember c n v s).x = s.x := rfl
@[simp] theorem remember_y (c : Code) (n : BitVec 13) (v : Byte) (s : State) : (remember c n v s).y = s.y := rfl
@[simp] theorem remember_w (c : Code) (n : BitVec 13) (v : Byte) (s : State) : (remember c n v s).w = s.w := rfl
@[simp] theorem remember_cw (c : Code) (n : BitVec 13) (v : Byte) (s : State) : (remember c n v s).cw = s.cw := rfl
@[simp] theorem remember_ch (c : Code) (n : BitVec 13) (v : Byte) (s : State) : (remember c n v s).ch = s.ch := rfl
@[simp] theorem remember_off (c : Code) (n : BitVec 13) (v : Byte) (s : State) : (remember c n v s).off = s.off := rfl
@[simp] theorem remember_info (c : Code) (n : BitVec 13) (v : Byte) (s : State) : (remember c n v s).info = s.info := rfl
@[simp] theorem remember_phase (c : Code) (n : BitVec 13) (v : Byte) (s : State) : (remember c n v s).phase = s.phase := rfl
@[simp] theorem remember_size (c : Code) (n : BitVec 13) (v : Byte) (s : State) : (remember c n v s).size = s.size := rfl
@[simp] theorem remember_width (c : Code) (n : BitVec 13) (v : Byte) (s : State) : (remember c n v s).width = s.width := rfl
@[simp] theorem remember_nent (c : Code) (n : BitVec 13) (v : Byte) (s : State) : (remember c n v s).nent = s.nent := rfl
@[simp] theorem remember_full (c : Code) (n : BitVec 13) (v : Byte) (s : State) : (remember c n v s).full = s.full := rfl
@[simp] theorem remember_hasPrev (c : Code) (n : BitVec 13) (v : Byte) (s : State) : (remember c n v s).hasPrev = true := rfl
@[simp] theorem remember_prevCode (c : Code) (n : BitVec 13) (v : Byte) (s : State) : (remember c n v s).prevCode = c := rfl
@[simp] theorem remember_prevLen (c : Code) (n : BitVec 13) (v : Byte) (s : State) : (remember c n v s).prevLen = n := rfl
@[simp] theorem remember_prevFirst (c : Code) (n : BitVec 13) (v : Byte) (s : State) : (remember c n v s).prevFirst = v := rfl
@[simp] theorem remember_cur (c : Code) (n : BitVec 13) (v : Byte) (s : State) : (remember c n v s).cur = s.cur := rfl
@[simp] theorem remember_shift (c : Code) (n : BitVec 13) (v : Byte) (s : State) : (remember c n v s).shift = s.shift := rfl
@[simp] theorem remember_subrem (c : Code) (n : BitVec 13) (v : Byte) (s : State) : (remember c n v s).subrem = s.subrem := rfl
@[simp] theorem remember_table (c : Code) (n : BitVec 13) (v : Byte) (s : State) : (remember c n v s).table = s.table := rfl
@[simp] theorem remember_bs (c : Code) (n : BitVec 13) (v : Byte) (s : State) : (remember c n v s).bs = s.bs := rfl
@[simp] theorem remember_fb (c : Code) (n : BitVec 13) (v : Byte) (s : State) : (remember c n v s).fb = s.fb := rfl
@[simp] theorem remember_flight (c : Code) (n : BitVec 13) (v : Byte) (s : State) : (remember c n v s).flight = Flight.rest := rfl
@[simp] theorem remember_params (c : Code) (n : BitVec 13) (v : Byte) (s : State) : (remember c n v s).params = s.params := rfl
@[simp] theorem remember_env (c : Code) (n : BitVec 13) (v : Byte) (s : State) : (remember c n v s).env = s.env := rfl
@[simp] theorem remember_hostData (c : Code) (n : BitVec 13) (v : Byte) (s : State) : (remember c n v s).hostData = s.hostData := rfl
@[simp] theorem remember_freeCtr (c : Code) (n : BitVec 13) (v : Byte) (s : State) : (remember c n v s).freeCtr = s.freeCtr := rfl
@[simp] theorem remember_ports (c : Code) (n : BitVec 13) (v : Byte) (s : State) : (remember c n v s).ports = s.ports := rfl

/-! ## `hardwareReset` -/

@[simp] theorem hardwareReset_state (s : State) : (hardwareReset s).state = .idle := rfl
@[simp] theorem hardwareReset_cause (s : State) : (hardwareReset s).cause = none := rfl
@[simp] theorem hardwareReset_trail (s : State) : (hardwareReset s).trail = false := rfl
@[simp] theorem hardwareReset_x (s : State) : (hardwareReset s).x = 0#16 := rfl
@[simp] theorem hardwareReset_y (s : State) : (hardwareReset s).y = 0#16 := rfl
@[simp] theorem hardwareReset_w (s : State) : (hardwareReset s).w = 0#16 := rfl
@[simp] theorem hardwareReset_cw (s : State) : (hardwareReset s).cw = 0#16 := rfl
@[simp] theorem hardwareReset_ch (s : State) : (hardwareReset s).ch = 0#16 := rfl
@[simp] theorem hardwareReset_off (s : State) : (hardwareReset s).off = 0#32 := rfl
@[simp] theorem hardwareReset_info (s : State) : (hardwareReset s).info = 0#32 := rfl
@[simp] theorem hardwareReset_phase (s : State) : (hardwareReset s).phase = .init := rfl
@[simp] theorem hardwareReset_size (s : State) : (hardwareReset s).size = 0#4 := rfl
@[simp] theorem hardwareReset_width (s : State) : (hardwareReset s).width = 0#4 := rfl
@[simp] theorem hardwareReset_nent (s : State) : (hardwareReset s).nent = 0#13 := rfl
@[simp] theorem hardwareReset_full (s : State) : (hardwareReset s).full = false := rfl
@[simp] theorem hardwareReset_hasPrev (s : State) : (hardwareReset s).hasPrev = false := rfl
@[simp] theorem hardwareReset_prevCode (s : State) : (hardwareReset s).prevCode = 0#12 := rfl
@[simp] theorem hardwareReset_prevLen (s : State) : (hardwareReset s).prevLen = 0#13 := rfl
@[simp] theorem hardwareReset_prevFirst (s : State) : (hardwareReset s).prevFirst = 0#8 := rfl
@[simp] theorem hardwareReset_cur (s : State) : (hardwareReset s).cur = 0#8 := rfl
@[simp] theorem hardwareReset_shift (s : State) : (hardwareReset s).shift = 0#3 := rfl
@[simp] theorem hardwareReset_subrem (s : State) : (hardwareReset s).subrem = 0#8 := rfl
@[simp] theorem hardwareReset_table (s : State) : (hardwareReset s).table = [] := rfl
@[simp] theorem hardwareReset_bs (s : State) : (hardwareReset s).bs = s.bs := rfl
@[simp] theorem hardwareReset_fb (s : State) : (hardwareReset s).fb = frameAfterReset s := rfl
@[simp] theorem hardwareReset_flight (s : State) : (hardwareReset s).flight = Flight.rest := rfl
@[simp] theorem hardwareReset_params (s : State) : (hardwareReset s).params = s.params := rfl
@[simp] theorem hardwareReset_env (s : State) : (hardwareReset s).env = s.env := rfl
@[simp] theorem hardwareReset_hostData (s : State) : (hardwareReset s).hostData = s.hostData := rfl
@[simp] theorem hardwareReset_freeCtr (s : State) : (hardwareReset s).freeCtr = s.freeCtr + 1 := rfl
@[simp] theorem hardwareReset_ports (s : State) : (hardwareReset s).ports = s.ports := rfl

/-! ## `consume` -/

@[simp] theorem consume_state (b : Byte) (r : List Byte) (s : State) : (consume b r s).state = s.state := rfl
@[simp] theorem consume_cause (b : Byte) (r : List Byte) (s : State) : (consume b r s).cause = s.cause := rfl
@[simp] theorem consume_trail (b : Byte) (r : List Byte) (s : State) : (consume b r s).trail = s.trail := rfl
@[simp] theorem consume_x (b : Byte) (r : List Byte) (s : State) : (consume b r s).x = s.x := rfl
@[simp] theorem consume_y (b : Byte) (r : List Byte) (s : State) : (consume b r s).y = s.y := rfl
@[simp] theorem consume_w (b : Byte) (r : List Byte) (s : State) : (consume b r s).w = s.w := rfl
@[simp] theorem consume_cw (b : Byte) (r : List Byte) (s : State) : (consume b r s).cw = s.cw := rfl
@[simp] theorem consume_ch (b : Byte) (r : List Byte) (s : State) : (consume b r s).ch = s.ch := rfl
@[simp] theorem consume_off (b : Byte) (r : List Byte) (s : State) : (consume b r s).off = s.off := rfl
@[simp] theorem consume_info (b : Byte) (r : List Byte) (s : State) : (consume b r s).info = s.info := rfl
@[simp] theorem consume_phase (b : Byte) (r : List Byte) (s : State) : (consume b r s).phase = s.phase := rfl
@[simp] theorem consume_size (b : Byte) (r : List Byte) (s : State) : (consume b r s).size = s.size := rfl
@[simp] theorem consume_width (b : Byte) (r : List Byte) (s : State) : (consume b r s).width = s.width := rfl
@[simp] theorem consume_nent (b : Byte) (r : List Byte) (s : State) : (consume b r s).nent = s.nent := rfl
@[simp] theorem consume_full (b : Byte) (r : List Byte) (s : State) : (consume b r s).full = s.full := rfl
@[simp] theorem consume_hasPrev (b : Byte) (r : List Byte) (s : State) : (consume b r s).hasPrev = s.hasPrev := rfl
@[simp] theorem consume_prevCode (b : Byte) (r : List Byte) (s : State) : (consume b r s).prevCode = s.prevCode := rfl
@[simp] theorem consume_prevLen (b : Byte) (r : List Byte) (s : State) : (consume b r s).prevLen = s.prevLen := rfl
@[simp] theorem consume_prevFirst (b : Byte) (r : List Byte) (s : State) : (consume b r s).prevFirst = s.prevFirst := rfl
@[simp] theorem consume_cur (b : Byte) (r : List Byte) (s : State) : (consume b r s).cur = s.cur := rfl
@[simp] theorem consume_shift (b : Byte) (r : List Byte) (s : State) : (consume b r s).shift = s.shift := rfl
@[simp] theorem consume_subrem (b : Byte) (r : List Byte) (s : State) : (consume b r s).subrem = s.subrem := rfl
@[simp] theorem consume_table (b : Byte) (r : List Byte) (s : State) : (consume b r s).table = s.table := rfl
@[simp] theorem consume_bs (b : Byte) (r : List Byte) (s : State) : (consume b r s).bs = r := rfl
@[simp] theorem consume_fb (b : Byte) (r : List Byte) (s : State) : (consume b r s).fb = s.fb := rfl
@[simp] theorem consume_flight (b : Byte) (r : List Byte) (s : State) : (consume b r s).flight = s.flight := rfl
@[simp] theorem consume_ports (b : Byte) (r : List Byte) (s : State) : (consume b r s).ports = .consumed b :: s.ports := rfl
@[simp] theorem consume_params (b : Byte) (r : List Byte) (s : State) : (consume b r s).params = s.params := rfl
@[simp] theorem consume_env (b : Byte) (r : List Byte) (s : State) : (consume b r s).env = s.env := rfl
@[simp] theorem consume_hostData (b : Byte) (r : List Byte) (s : State) : (consume b r s).hostData = s.hostData := rfl
@[simp] theorem consume_freeCtr (b : Byte) (r : List Byte) (s : State) : (consume b r s).freeCtr = s.freeCtr := rfl

/-! ## `putByte` -/

@[simp] theorem putByte_state (a : Nat) (v : Byte) (s : State) : (putByte a v s).state = s.state := rfl
@[simp] theorem putByte_cause (a : Nat) (v : Byte) (s : State) : (putByte a v s).cause = s.cause := rfl
@[simp] theorem putByte_trail (a : Nat) (v : Byte) (s : State) : (putByte a v s).trail = s.trail := rfl
@[simp] theorem putByte_x (a : Nat) (v : Byte) (s : State) : (putByte a v s).x = s.x := rfl
@[simp] theorem putByte_y (a : Nat) (v : Byte) (s : State) : (putByte a v s).y = s.y := rfl
@[simp] theorem putByte_w (a : Nat) (v : Byte) (s : State) : (putByte a v s).w = s.w := rfl
@[simp] theorem putByte_cw (a : Nat) (v : Byte) (s : State) : (putByte a v s).cw = s.cw := rfl
@[simp] theorem putByte_ch (a : Nat) (v : Byte) (s : State) : (putByte a v s).ch = s.ch := rfl
@[simp] theorem putByte_off (a : Nat) (v : Byte) (s : State) : (putByte a v s).off = s.off := rfl
@[simp] theorem putByte_info (a : Nat) (v : Byte) (s : State) : (putByte a v s).info = s.info := rfl
@[simp] theorem putByte_phase (a : Nat) (v : Byte) (s : State) : (putByte a v s).phase = s.phase := rfl
@[simp] theorem putByte_size (a : Nat) (v : Byte) (s : State) : (putByte a v s).size = s.size := rfl
@[simp] theorem putByte_width (a : Nat) (v : Byte) (s : State) : (putByte a v s).width = s.width := rfl
@[simp] theorem putByte_nent (a : Nat) (v : Byte) (s : State) : (putByte a v s).nent = s.nent := rfl
@[simp] theorem putByte_full (a : Nat) (v : Byte) (s : State) : (putByte a v s).full = s.full := rfl
@[simp] theorem putByte_hasPrev (a : Nat) (v : Byte) (s : State) : (putByte a v s).hasPrev = s.hasPrev := rfl
@[simp] theorem putByte_prevCode (a : Nat) (v : Byte) (s : State) : (putByte a v s).prevCode = s.prevCode := rfl
@[simp] theorem putByte_prevLen (a : Nat) (v : Byte) (s : State) : (putByte a v s).prevLen = s.prevLen := rfl
@[simp] theorem putByte_prevFirst (a : Nat) (v : Byte) (s : State) : (putByte a v s).prevFirst = s.prevFirst := rfl
@[simp] theorem putByte_cur (a : Nat) (v : Byte) (s : State) : (putByte a v s).cur = s.cur := rfl
@[simp] theorem putByte_shift (a : Nat) (v : Byte) (s : State) : (putByte a v s).shift = s.shift := rfl
@[simp] theorem putByte_subrem (a : Nat) (v : Byte) (s : State) : (putByte a v s).subrem = s.subrem := rfl
@[simp] theorem putByte_table (a : Nat) (v : Byte) (s : State) : (putByte a v s).table = s.table := rfl
@[simp] theorem putByte_bs (a : Nat) (v : Byte) (s : State) : (putByte a v s).bs = s.bs := rfl
@[simp] theorem putByte_fb (a : Nat) (v : Byte) (s : State) : (putByte a v s).fb = store s.fb a v := rfl
@[simp] theorem putByte_flight (a : Nat) (v : Byte) (s : State) : (putByte a v s).flight = s.flight := rfl
@[simp] theorem putByte_ports (a : Nat) (v : Byte) (s : State) : (putByte a v s).ports = .wrote a v :: s.ports := rfl
@[simp] theorem putByte_params (a : Nat) (v : Byte) (s : State) : (putByte a v s).params = s.params := rfl
@[simp] theorem putByte_env (a : Nat) (v : Byte) (s : State) : (putByte a v s).env = s.env := rfl
@[simp] theorem putByte_hostData (a : Nat) (v : Byte) (s : State) : (putByte a v s).hostData = s.hostData := rfl
@[simp] theorem putByte_freeCtr (a : Nat) (v : Byte) (s : State) : (putByte a v s).freeCtr = s.freeCtr := rfl

end Sys2Proof.Machine
end

