-- ==== Sys2Proof/Laws/Ops.lean ====
section
/-!
SUPPORT. For each shared operation, one lemma that says once everything it can do.
-/

namespace Sys2Proof.Machine

variable {α β : Type}

/-! ## The flow of a step -/

@[simp] theorem andThen_of_go (a : α) (s : State) (k : α → State → Flow β) : andThen (.go a s) k = k a s := rfl

@[simp] theorem andThen_of_halt (o : Result) (k : α → State → Flow β) :
    andThen (.halt o : Flow α) k = .halt o := rfl

theorem andThen_go {m : Flow α} {k : α → State → Flow β} {b : β} {t : State} :
    andThen m k = .go b t ↔ ∃ a s, m = .go a s ∧ k a s = .go b t := by
  cases m <;> simp

theorem andThen_halt {m : Flow α} {k : α → State → Flow β} {o : Result} :
    andThen m k = .halt o ↔ m = .halt o ∨ ∃ a s, m = .go a s ∧ k a s = .halt o := by
  cases m <;> simp

@[simp] theorem outcomeOf_of_go (u : Unit) (s : State) : outcomeOf (.go u s) = .next s := rfl

@[simp] theorem outcomeOf_of_halt (o : Result) : outcomeOf (.halt o) = o := rfl

theorem outcomeOf_next {m : Flow Unit} {t : State} :
    outcomeOf m = .next t ↔ m = .go () t ∨ m = .halt (.next t) := by
  cases m <;> simp

@[simp] theorem raise_ne_go (c : Cause) (n : Nat) (s : State) (a : α) (t : State) :
    (raise c n s : Flow α) ≠ .go a t := nofun

@[simp] theorem raise_halt (c : Cause) (n : Nat) (s : State) (o : Result) :
    (raise c n s : Flow α) = .halt o ↔ .next (faulted c n s) = o := by
  simp [raise]

/-! ## What is seen on the ports -/

@[simp] theorem byteRecord_nil : byteRecord [] = [] := rfl

@[simp] theorem byteRecord_cons (b : Byte) (r : List Byte) : byteRecord (b :: r) = byteRecord r ++ [.consumed b] := by
  simp [byteRecord]

@[simp] theorem byteRecord_append (a b : List Byte) : byteRecord (a ++ b) = byteRecord b ++ byteRecord a := by
  simp [byteRecord]

theorem tookBytes_none {s t : State} (hb : s.bs = t.bs) (hp : t.ports = s.ports) : tookBytes s t := ⟨[], hb, hp⟩

theorem tookBytes_trans {s t u : State} (h : tookBytes s t) (k : tookBytes t u) : tookBytes s u := by
  obtain ⟨a, ha, hp⟩ := h
  obtain ⟨b, hb, hq⟩ := k
  exact ⟨a ++ b, by rw [ha, hb, List.append_assoc], by rw [hq, hp]; simp⟩

theorem tookBytes_consume {s : State} {b : Byte} {r : List Byte} (h : s.bs = b :: r) : tookBytes s (consume b r s) :=
  ⟨[b], h, rfl⟩

theorem tookBytes_suffix {s t : State} (h : tookBytes s t) : t.bs <:+ s.bs := by
  obtain ⟨a, ha, _⟩ := h
  exact ⟨a, ha.symm⟩

theorem applyWrites_append (a b fb : List Host.Cell) : applyWrites (a ++ b) fb = applyWrites a (applyWrites b fb) := by
  induction a with
  | nil => rfl
  | cons c r ih => simp [applyWrites, ih]

theorem applyWrites_wf (ws : List Host.Cell) {fb : List Host.Cell} (h : Memory.wf fb = true) :
    Memory.wf (applyWrites ws fb) = true := by
  induction ws with
  | nil => exact h
  | cons c r ih => exact store_wf ih _ _

/-! ## The byte source -/

theorem nextByte_go {s t : State} {b : Byte} :
    nextByte s = .go b t ↔ s.bs = b :: t.bs ∧ t = consume b t.bs s := by
  unfold nextByte
  cases h : s.bs with
  | nil => simp
  | cons d r =>
    constructor
    · intro hg
      cases hg
      exact ⟨rfl, rfl⟩
    · rintro ⟨hb, ht⟩
      cases hb
      rw [ht]
      rfl

theorem nextByte_halt {s : State} {o : Result} :
    nextByte s = .halt o ↔ s.bs = [] ∧ o = .next (faulted .unexpectedEof s.off.toNat s) := by
  unfold nextByte
  cases h : s.bs with
  | nil => simp [eq_comm]
  | cons d r => simp

/-- Dropping `n` bytes: they are there, or the source is emptied and the fault of R155 is raised; either way the
bytes are seen on the port. -/
theorem skipBytes_eq (n : Nat) (s : State) :
    skipBytes n s =
      if n ≤ s.bs.length then
        .go () { s with bs := s.bs.drop n, ports := byteRecord (s.bs.take n) ++ s.ports }
      else
        .halt (.next (faulted .unexpectedEof s.off.toNat { s with bs := [], ports := byteRecord s.bs ++ s.ports })) := by
  induction n generalizing s with
  | zero => simp [skipBytes]
  | succ k ih =>
    unfold skipBytes nextByte
    cases h : s.bs with
    | nil =>
      have : ({ s with bs := [] } : State) = s := by rw [← h]
      simp [raise, this]
    | cons d r => simp [ih, consume]

/-! ## The code table and the frame buffer -/

theorem readEntry_go {i : Nat} {s t : State} {e : Entry} :
    readEntry i s = .go e t ↔ lookup s.table i = some e ∧ t = s := by
  unfold readEntry
  cases lookup s.table i <;> simp [eq_comm]

theorem readEntry_halt {i : Nat} {s : State} {o : Result} :
    readEntry i s = .halt o ↔ lookup s.table i = none ∧ o = .refused .unspecifiedEntry := by
  unfold readEntry
  cases lookup s.table i <;> simp [eq_comm]

theorem writePixel_go {p : Nat} {v : Byte} {s t : State} :
    writePixel p v s = .go () t ↔
      s.w ≠ 0#16 ∧ fbAddr s p < frameBytes s ∧ t = putByte (fbAddr s p) v s := by
  unfold writePixel
  by_cases hw : s.w = 0#16
  · rw [if_pos hw]
    simp [hw]
  · rw [if_neg hw]
    by_cases ha : fbAddr s p < frameBytes s
    · rw [if_pos ha]
      simp [hw, ha, eq_comm]
    · rw [if_neg ha]
      simp [ha]

theorem writePixel_halt {p : Nat} {v : Byte} {s : State} {o : Result} :
    writePixel p v s = .halt o ↔
      s.w = 0#16 ∧ o = .fault .zeroWidth ∨
        s.w ≠ 0#16 ∧ frameBytes s ≤ fbAddr s p ∧ o = .next (faulted .fbRange p s) := by
  unfold writePixel
  by_cases hw : s.w = 0#16
  · rw [if_pos hw]
    simp [hw, eq_comm]
  · rw [if_neg hw]
    by_cases ha : fbAddr s p < frameBytes s
    · rw [if_pos ha]
      simp [hw, ha]
    · rw [if_neg ha]
      simp [hw, Nat.not_lt.1 ha, eq_comm]

/-- The insertion phase (R102): no room, an insertion, or nothing. -/
theorem insertPhase_cases (s : State) :
    (s.hasPrev = true ∧ s.full = false ∧ s.params.tableDepth ≤ s.nent.toNat ∧
        insertPhase s = .halt (.next (faulted .outOfMemory s.nent.toNat s))) ∨
      (s.hasPrev = true ∧ s.full = false ∧ s.nent.toNat < s.params.tableDepth ∧
        insertPhase s = .go () (insertEntry s)) ∨
      ((s.hasPrev = false ∨ s.full = true) ∧ insertPhase s = .go () { s with flight := Flight.rest }) := by
  unfold insertPhase
  by_cases h : s.hasPrev = true ∧ s.full = false
  · by_cases hd : s.params.tableDepth ≤ s.nent.toNat
    · exact .inl ⟨h.1, h.2, hd, by simp [h, hd, raise]⟩
    · exact .inr (.inl ⟨h.1, h.2, Nat.not_le.1 hd, by simp [h, hd]⟩)
  · refine .inr (.inr ⟨?_, by simp [h]⟩)
    cases hp : s.hasPrev <;> cases hf : s.full <;> simp_all

/-! ## The bit reader -/

/-- A state that differs from another by the bit reader's registers, the source and `got` alone, the bytes consumed
in between being seen on the port. -/
def bitReaderMoved (s t : State) : Prop :=
  t = { s with
    cur := t.cur, shift := t.shift, subrem := t.subrem, bs := t.bs, ports := t.ports,
    flight := { s.flight with got := t.flight.got } } ∧
  tookBytes s t

theorem bitReaderMoved_refl (s : State) : bitReaderMoved s s := ⟨rfl, tookBytes_none rfl rfl⟩

theorem bitReaderMoved_trans {s t u : State} (h : bitReaderMoved s t) (k : bitReaderMoved t u) :
    bitReaderMoved s u := by
  refine ⟨?_, tookBytes_trans h.2 k.2⟩
  rw [k.1, h.1]

/-- What `FetchData` can do for a code (R82). -/
theorem fetchData_cases (s : State) (hd : s.flight.draining = false) :
    (∃ t, fetchData s = .go () t ∧ bitReaderMoved s t ∧ t.shift = s.shift ∧ t.flight = s.flight ∧
        t.bs <:+ s.bs ∧ t.bs.length < s.bs.length) ∨
      (∃ t, fetchData s = .halt (.next (faulted .unexpectedEof s.off.toNat t)) ∧ bitReaderMoved s t ∧ t.bs = []) ∨
      (∃ t, fetchData s = .halt (.next (faulted .prematureTerminator s.flight.got t)) ∧ bitReaderMoved s t ∧
        t.bs <:+ s.bs) := by
  unfold fetchData
  by_cases h0 : s.subrem = 0#8
  · rw [if_pos h0]
    rcases hb : s.bs with _ | ⟨n, r⟩
    · refine .inr (.inl ⟨s, ?_, bitReaderMoved_refl s, hb⟩)
      simp [nextByte, hb, raise]
    · simp only [nextByte, hb, andThen_of_go, lengthToken]
      by_cases hn : n = 0#8
      · refine .inr (.inr ⟨consume n r s, ?_, ⟨rfl, tookBytes_consume hb⟩, List.suffix_cons _ _⟩)
        rw [if_pos hn]
        simp [termToken, hd, raise]
      · rw [if_neg hn]
        rcases r with _ | ⟨d, r'⟩
        · refine .inr (.inl ⟨{ consume n [] s with subrem := n }, ?_, ⟨rfl, [n], hb, rfl⟩, rfl⟩)
          simp [lenToken, hd, raise]
        · refine .inl ⟨{ consume d r' (consume n (d :: r') s) with subrem := n - 1#8, cur := d }, ?_,
            ⟨rfl, [n, d], hb, rfl⟩, rfl, rfl, ?_, ?_⟩
          · simp [lenToken, dataToken, hd, consume]
          · exact (List.suffix_cons _ _).trans (List.suffix_cons _ _)
          · simp only [consume, List.length_cons]; omega
  · rw [if_neg h0]
    rcases hb : s.bs with _ | ⟨d, r⟩
    · refine .inr (.inl ⟨s, ?_, bitReaderMoved_refl s, hb⟩)
      simp [nextByte, hb, raise]
    · refine .inl ⟨{ consume d r s with subrem := s.subrem - 1#8, cur := d }, ?_, ⟨rfl, [d], hb, rfl⟩, rfl, rfl, ?_, ?_⟩
      · simp [nextByte, hb, dataToken, hd]
      · exact List.suffix_cons _ _
      · simp [consume]

/-- What the loop of `ReadCode` can do (R83): only the bit reader moves; its faults are those of `FetchData`. -/
theorem readRounds_cases (f n got code : Nat) (s : State) (hd : s.flight.draining = false) :
    (∃ c t, readRounds f n got code s = .go c t ∧ bitReaderMoved s t ∧ t.bs <:+ s.bs) ∨
      (∃ c g t, readRounds f n got code s = .halt (.next (faulted c g t)) ∧ bitReaderMoved s t ∧ t.bs <:+ s.bs ∧
        (c = .unexpectedEof ∧ g = s.off.toNat ∨ c = .prematureTerminator)) := by
  induction f generalizing got code s with
  | zero => exact .inl ⟨code, s, rfl, bitReaderMoved_refl s, List.suffix_rfl⟩
  | succ f ih =>
    unfold readRounds
    by_cases hg : n ≤ got
    · exact .inl ⟨code, s, by simp [hg], bitReaderMoved_refl s, List.suffix_rfl⟩
    · simp only [hg, if_false]
      set u : State := { s with flight := { s.flight with got := got } } with hu
      have hud : u.flight.draining = false := hd
      have hsu : bitReaderMoved s u := ⟨rfl, tookBytes_none rfl rfl⟩
      have finish : ∀ v : State, bitReaderMoved s v → v.flight.draining = false → v.bs <:+ s.bs →
          ∀ (got' code' : Nat) (sh : BitVec 3),
          (∃ c t, readRounds f n got' code' { v with shift := sh } = .go c t ∧ bitReaderMoved s t ∧ t.bs <:+ s.bs) ∨
            (∃ c g t, readRounds f n got' code' { v with shift := sh } = .halt (.next (faulted c g t)) ∧
              bitReaderMoved s t ∧ t.bs <:+ s.bs ∧
              (c = .unexpectedEof ∧ g = s.off.toNat ∨ c = .prematureTerminator)) := by
        intro v hv hvd hvb got' code' sh
        have hoff : v.off = s.off := by rw [hv.1]
        have hmv : bitReaderMoved s { v with shift := sh } := by
          refine ⟨?_, hv.2⟩
          conv_lhs => rw [hv.1]
        rcases ih got' code' { v with shift := sh } hvd with ⟨c, t, h1, h2, h3⟩ | ⟨c, g, t, h1, h2, h3, h4⟩
        · exact .inl ⟨c, t, h1, bitReaderMoved_trans hmv h2, h3.trans hvb⟩
        · refine .inr ⟨c, g, t, h1, bitReaderMoved_trans hmv h2, h3.trans hvb, ?_⟩
          exact h4.imp (fun h => ⟨h.1, by rw [h.2]; exact congrArg _ hoff⟩) id
      by_cases h0 : u.shift = 0#3
      · rw [if_pos h0]
        rcases fetchData_cases u hud with ⟨v, h1, h2, h3, h4, h5, _⟩ | ⟨v, h1, h2, h3⟩ | ⟨v, h1, h2, h3⟩
        · simp only [h1, andThen_of_go, takeBits]
          exact finish v (bitReaderMoved_trans hsu h2) (by rw [h4]; exact hud) h5 _ _ _
        · exact .inr ⟨_, _, v, by rw [h1]; rfl, bitReaderMoved_trans hsu h2, by rw [h3]; exact List.nil_suffix,
            .inl ⟨rfl, rfl⟩⟩
        · exact .inr ⟨_, _, v, by rw [h1]; rfl, bitReaderMoved_trans hsu h2, h3, .inr rfl⟩
      · rw [if_neg h0]
        simp only [andThen_of_go, takeBits]
        exact finish u hsu hud List.suffix_rfl _ _ _

/-- What `ReadCode` can do (R83). -/
theorem readCode_cases (n : Nat) (s : State) (hd : s.flight.draining = false) :
    (¬(3 ≤ n ∧ n ≤ 12) ∧ readCode n s = .halt (.fault .widthRange)) ∨
      (∃ c t, readCode n s = .go c t ∧ bitReaderMoved s t ∧ t.bs <:+ s.bs) ∨
      (∃ c g t, readCode n s = .halt (.next (faulted c g t)) ∧ bitReaderMoved s t ∧ t.bs <:+ s.bs ∧
        (c = .unexpectedEof ∧ g = s.off.toNat ∨ c = .prematureTerminator)) := by
  unfold readCode
  by_cases h : 3 ≤ n ∧ n ≤ 12
  · rw [if_pos h]
    exact .inr (readRounds_cases n n 0 0 s hd)
  · exact .inl ⟨h, if_neg h⟩

/-! ## `Drain` -/

/-- A state that differs from another by what `Drain` writes alone (R85). -/
def drained (s t : State) : Prop :=
  t = { s with
    trail := t.trail, shift := t.shift, subrem := t.subrem, bs := t.bs, ports := t.ports,
    flight := { s.flight with draining := t.flight.draining } } ∧
  tookBytes s t

theorem drained_refl (s : State) : drained s s := ⟨rfl, tookBytes_none rfl rfl⟩

theorem drained_trans {s t u : State} (h : drained s t) (k : drained t u) : drained s u := by
  refine ⟨?_, tookBytes_trans h.2 k.2⟩
  rw [k.1, h.1]

/-- What the loops of `Drain` can do: reach the terminator, or empty the source. -/
theorem drainRounds_cases (f : Nat) (s : State) (hd : s.flight.draining = true) (hf : s.bs.length ≤ f) :
    (∃ t, drainRounds f s = .go () t ∧ drained s t ∧ t.bs <:+ s.bs ∧ t.bs.length < s.bs.length ∧
        t.flight.draining = false ∧ t.shift = 0#3 ∧ t.subrem = 0#8) ∨
      (∃ t, drainRounds f s = .halt (.next (faulted .unexpectedEof s.off.toNat t)) ∧ drained s t ∧ t.bs = []) := by
  induction f generalizing s with
  | zero => exact .inr ⟨s, rfl, drained_refl s, List.length_eq_zero_iff.1 (Nat.le_zero.1 hf)⟩
  | succ f ih =>
    unfold drainRounds
    rcases hb : s.bs with _ | ⟨b, r⟩
    · exact .inr ⟨s, by simp [nextByte, hb, raise], drained_refl s, hb⟩
    · have hr : r.length ≤ f := by
        rw [hb] at hf
        exact Nat.le_of_succ_le_succ hf
      have cont : ∀ v : State, drained s v → v.flight.draining = true → v.bs <:+ r →
          (∃ t, drainRounds f v = .go () t ∧ drained s t ∧ t.bs <:+ b :: r ∧ t.bs.length < (b :: r).length ∧
              t.flight.draining = false ∧ t.shift = 0#3 ∧ t.subrem = 0#8) ∨
            (∃ t, drainRounds f v = .halt (.next (faulted .unexpectedEof s.off.toNat t)) ∧ drained s t ∧
              t.bs = []) := by
        intro v hv hvd hvb
        have hoff : v.off = s.off := by rw [hv.1]
        rcases ih v hvd (hvb.length_le.trans hr) with ⟨t, h1, h2, h3, h4, h5⟩ | ⟨t, h1, h2, h3⟩
        · refine .inl ⟨t, h1, drained_trans hv h2, (h3.trans hvb).trans (List.suffix_cons _ _), ?_, h5⟩
          have := hvb.length_le
          simp only [List.length_cons]
          omega
        · exact .inr ⟨t, by rw [h1, hoff], drained_trans hv h2, h3⟩
      simp only [nextByte, hb, andThen_of_go]
      by_cases h0 : (consume b r s).subrem = 0#8
      · rw [if_pos h0]
        simp only [lengthToken]
        by_cases hb0 : b = 0#8
        · refine .inl ⟨{ consume b r s with shift := 0#3, flight := { s.flight with draining := false } }, ?_,
            ⟨rfl, tookBytes_consume hb⟩, List.suffix_cons _ _, by simp, rfl, rfl, h0⟩
          rw [if_pos hb0]
          simp [termToken, hd]
        · rw [if_neg hb0]
          simp only [lenToken, consume_flight, hd, if_true, skipBytes_eq, consume_bs]
          by_cases hl : b.toNat ≤ r.length
          · simp only [hl, if_true, andThen_of_go, hd]
            refine cont _ ⟨rfl, b :: r.take b.toNat, ?_, ?_⟩ hd (List.drop_suffix _ _)
            · rw [hb]; simp
            · simp
          · refine .inr ⟨{ consume b r s with bs := [], trail := true, ports := byteRecord r ++ .consumed b :: s.ports },
              by simp [hl], ⟨rfl, b :: r, by simp [hb], by simp⟩, rfl⟩
      · rw [if_neg h0]
        simp only [dataToken, consume_flight, hd, if_true, andThen_of_go]
        exact cont _ ⟨rfl, [b], hb, rfl⟩ hd List.suffix_rfl

/-- What `Drain` can do (R85). -/
theorem drain_cases (s : State) :
    (∃ t, drain s = .go () t ∧
        t = { s with
          trail := t.trail, shift := 0#3, subrem := 0#8, bs := t.bs, ports := t.ports,
          flight := { s.flight with draining := false } } ∧
        tookBytes s t ∧ t.bs.length < s.bs.length) ∨
      (∃ t, drain s = .halt (.next (faulted .unexpectedEof s.off.toNat t)) ∧ drained s t ∧ t.bs = []) := by
  unfold drain
  rcases drainRounds_cases s.bs.length { s with flight := { s.flight with draining := true } } rfl le_rfl with
    ⟨t, h1, h2, h3, h4, h5, h6, h7⟩ | ⟨t, h1, h2, h3⟩
  · refine .inl ⟨t, h1, ?_, h2.2, h4⟩
    conv_lhs => rw [h2.1]
    rw [h5, h6, h7]
  · refine .inr ⟨t, h1, ⟨?_, h2.2⟩, h3⟩
    rw [h2.1]

/-! ## Emission -/

/-- A state after some pixel writes, given the newest first: the frame buffer holds them and the port shows them. -/
def painted (ws : List Host.Cell) (s : State) : State :=
  { s with fb := applyWrites ws s.fb, ports := wroteRecord ws ++ s.ports }

theorem painted_putByte (ws : List Host.Cell) (a : Nat) (v : Byte) (s : State) :
    painted ws (putByte a v s) = painted (ws ++ [(a, v)]) s := by
  simp [painted, putByte, applyWrites_append, applyWrites, wroteRecord]

/-- What the walk of a chain can do (R127): pixel writes alone. -/
theorem walk_cases (f : Nat) (e : Entry) (s : State) :
    (∃ v ws, walk f e s = .go v (painted ws s)) ∨
      (∃ p ws, walk f e s = .halt (.next (faulted .fbRange p (painted ws s)))) ∨
      (∃ r, walk f e s = .halt (.fault r)) ∨ (∃ r, walk f e s = .halt (.refused r)) := by
  induction f generalizing e s with
  | zero => exact .inr (.inr (.inl ⟨_, rfl⟩))
  | succ f ih =>
    unfold walk
    by_cases hl : e.len = 0#13
    · exact .inr (.inr (.inl ⟨_, by simp [hl]; rfl⟩))
    · simp only [hl, if_false]
      cases hw : writePixel (s.off.toNat + e.len.toNat - 1) e.suffix s with
      | halt o =>
        rcases writePixel_halt.1 hw with ⟨_, rfl⟩ | ⟨_, _, rfl⟩
        · exact .inr (.inr (.inl ⟨_, rfl⟩))
        · exact .inr (.inl ⟨_, [], rfl⟩)
      | go u t =>
        obtain ⟨_, _, rfl⟩ := writePixel_go.1 hw
        simp only [andThen_of_go]
        cases hp : e.pfx with
        | none => exact .inl ⟨_, [(_, _)], rfl⟩
        | some j =>
          simp only
          cases hr : readEntry j.toNat (putByte (fbAddr s (s.off.toNat + e.len.toNat - 1)) e.suffix s) with
          | halt o =>
            obtain ⟨_, rfl⟩ := readEntry_halt.1 hr
            exact .inr (.inr (.inr ⟨_, rfl⟩))
          | go e' t =>
            obtain ⟨_, rfl⟩ := readEntry_go.1 hr
            simp only [andThen_of_go]
            rcases ih e' (putByte (fbAddr s (s.off.toNat + e.len.toNat - 1)) e.suffix s) with
              ⟨v, ws, h⟩ | ⟨p, ws, h⟩ | h | h
            · exact .inl ⟨v, _, by rw [h, painted_putByte]⟩
            · exact .inr (.inl ⟨p, _, by rw [h, painted_putByte]⟩)
            · exact .inr (.inr (.inl h))
            · exact .inr (.inr (.inr h))

/-- What `Emit` can do (R127). -/
theorem emit_cases (c : Code) (s : State) :
    (∃ e v ws, lookup s.table c.toNat = some e ∧ emit c s = .go (e.len, v) (painted ws s)) ∨
      (∃ p ws, emit c s = .halt (.next (faulted .fbRange p (painted ws s)))) ∨
      (∃ r, emit c s = .halt (.fault r)) ∨ (∃ r, emit c s = .halt (.refused r)) := by
  unfold emit
  cases hr : readEntry c.toNat s with
  | halt o =>
    obtain ⟨_, rfl⟩ := readEntry_halt.1 hr
    exact .inr (.inr (.inr ⟨_, rfl⟩))
  | go e t =>
    obtain ⟨he, rfl⟩ := readEntry_go.1 hr
    simp only [andThen_of_go]
    rcases walk_cases walkFuel e t with ⟨v, ws, h⟩ | ⟨p, ws, h⟩ | ⟨r, h⟩ | ⟨r, h⟩
    · exact .inl ⟨e, v, ws, he, by simp [h]⟩
    · exact .inr (.inl ⟨p, ws, by simp [h]⟩)
    · exact .inr (.inr (.inl ⟨r, by simp [h]⟩))
    · exact .inr (.inr (.inr ⟨r, by simp [h]⟩))

/-- The state the tail of a data code leaves, its run emitted (R120). -/
def dataDone (c : Code) (len : BitVec 13) (first : Byte) (s : State) : State :=
  remember c len first (repair first (advance len s))

/-- What a data code can do (R120). -/
theorem dataCode_cases (c : Code) (s : State) :
    (∃ e v ws, lookup s.table c.toNat = some e ∧
        dataCode c s = .next (dataDone c e.len v (painted ws (growWidth s)))) ∨
      (∃ p ws, dataCode c s = .next (faulted .fbRange p (painted ws (growWidth s)))) ∨
      (∃ r, dataCode c s = .fault r) ∨ (∃ r, dataCode c s = .refused r) := by
  unfold dataCode
  rcases emit_cases c (growWidth s) with ⟨e, v, ws, he, h⟩ | ⟨p, ws, h⟩ | ⟨r, h⟩ | ⟨r, h⟩
  · exact .inl ⟨e, v, ws, by simpa using he, by simp [h, dataDone]⟩
  · exact .inr (.inl ⟨p, ws, by simp [h]⟩)
  · exact .inr (.inr (.inl ⟨r, by simp [h]⟩))
  · exact .inr (.inr (.inr ⟨r, by simp [h]⟩))

/-- What a stop code can do (R122). -/
theorem stopCode_cases (s : State) :
    (∃ t, stopCode s = .next (finished t) ∧
        t = { s with
          trail := t.trail, shift := 0#3, subrem := 0#8, bs := t.bs, ports := t.ports,
          flight := { s.flight with draining := false } } ∧
        tookBytes s t) ∨
      (∃ t, stopCode s = .next (faulted .unexpectedEof s.off.toNat t) ∧ drained s t ∧ t.bs = []) := by
  unfold stopCode
  rcases drain_cases s with ⟨t, h, ht, hb, _⟩ | ⟨t, h, ht⟩
  · exact .inl ⟨t, by simp [h], ht, hb⟩
  · exact .inr ⟨t, by simp [h], ht⟩

/-! ## A step -/

/-- The instruction a code is: one of the generic rows or one of the rows of its size, and so which shared operation
its meaning is. -/
theorem exec_classify (size nent : Nat) (inserted : Bool) (c : Code) (s : State) (hs : s.size.toNat = size) :
    exec (classify size nent inserted c) s =
      if c.toNat = 2 ^ size then clearCode size s
      else if c.toNat = 2 ^ size + 1 then stopCode s
      else if nent ≤ c.toNat then .next (faulted .invalidCode c.toNat (growWidth s))
      else dataCode c s := by
  unfold classify
  by_cases h1 : c.toNat = 2 ^ size
  · rw [if_pos h1, if_pos h1]
    unfold clearRow
    split <;> first | rfl | (subst hs; rfl)
  · rw [if_neg h1, if_neg h1]
    by_cases h2 : c.toNat = 2 ^ size + 1
    · rw [if_pos h2, if_pos h2]
      unfold stopRow
      split <;> rfl
    · rw [if_neg h2, if_neg h2]
      by_cases h3 : nent ≤ c.toNat
      · rw [if_pos h3, if_pos h3]
        rfl
      · rw [if_neg h3, if_neg h3]
        by_cases h4 : c.toNat < 2 ^ size
        · rw [if_pos h4]
          have back : ∀ k, size = k → literalCode (c.setWidth k) = c := by
            intro k hk
            subst hk
            apply BitVec.eq_of_toNat_eq
            simp only [literalCode, BitVec.toNat_setWidth]
            rw [Nat.mod_eq_of_lt h4, Nat.mod_eq_of_lt c.isLt]
          unfold literalRow
          split <;>
            first
              | rfl
              | (simp only [exec, execLitS2, execLitS3, execLitS4, execLitS5, execLitS6, execLitS7, execLitS8]
                 rw [back _ rfl])
        · rw [if_neg h4]
          split <;> rfl

@[simp] theorem runFetched_run (i : Instr) (t : State) : runFetched (.run i t) = exec i t := rfl

@[simp] theorem runFetched_ended (o : Result) : runFetched (.ended o) = o := rfl

/-- With an empty script a step is the block's turn (log 1). -/
theorem step_of_no_event {s : State} (he : s.env = []) : step s = runFetched (fetchBlock s) := by
  unfold step fetch
  simp only [he]

/-- With an event at its head a step is that event (log 1). -/
theorem step_of_event {s : State} {e : EnvEvent} {r : List EnvEvent} (he : s.env = e :: r) :
    step s = runFetched (fetchEvent e { s with env := r }) := by
  unfold step fetch
  simp only [he]

/-- The block's turn, by what it is in: nothing enabled, `INIT`, `SYMBOL` (R5, R131). -/
theorem fetchBlock_cases (s : State) :
    (s.state ≠ .busy ∧ fetchBlock s = .ended (.next s)) ∨
      (s.state = .busy ∧ s.phase = .init ∧ fetchBlock s = fetchedOf (fetchInit s)) ∨
      (s.state = .busy ∧ s.phase = .symbol ∧ fetchBlock s = fetchedOf (fetchSymbol s)) := by
  unfold fetchBlock
  by_cases hb : s.state = .busy
  · rw [if_pos hb]
    cases hp : s.phase
    · exact .inr (.inl ⟨hb, rfl, rfl⟩)
    · exact .inr (.inr ⟨hb, rfl, rfl⟩)
  · exact .inl ⟨hb, if_neg hb⟩

end Sys2Proof.Machine
end

