-- ==== Sys2Proof/Laws/PerInstr.lean ====
section
/-!
SUPPORT. Statements made for every instruction, one lemma per constructor.
-/

namespace Sys2Proof.Laws.RowUnit

/-- The bits of an instruction fit the unit of its row (spec/30_encoding.md R76), wherever it can stand. -/
def Statement (i : Instr) : Prop :=
  ∀ ctx : Context, i.fits ctx = true → (encode ctx.size i).toNat < 2 ^ ctx.unitBits

/-- A word of 8 bits fits every unit. -/
theorem byte_fits (b : Byte) (ctx : Context) : (b.setWidth 32).toNat < 2 ^ ctx.unitBits := by
  have h : (b.setWidth 32).toNat < 2 ^ 8 := by
    rw [BitVec.toNat_setWidth]
    exact (Nat.mod_le _ _).trans_lt b.isLt
  exact h.trans_le (Nat.pow_le_pow_right (by decide) (by cases ctx <;> simp [Context.unitBits]))

/-- A value that a code context holds fits the unit of the codes. -/
theorem held_fits {ctx : Context} {v : Nat} {w : Word} (h : ctx.holds v = true) (hw : w.toNat ≤ v) :
    w.toNat < 2 ^ ctx.unitBits := by
  cases ctx with
  | code size nent ins width =>
    simp only [Context.holds, decide_eq_true_eq] at h
    exact (hw.trans_lt h.2).trans_le (Nat.pow_le_pow_right (by decide) h.1)
  | byte use => cases h
  | hostWrite off => cases h

/-- A register word fits the unit of the host writes. -/
theorem word_fits {ctx : Context} {off : Nat} (w : Word) (h : ctx = .hostWrite off) :
    w.toNat < 2 ^ ctx.unitBits := by
  subst h
  exact w.isLt

theorem code_toNat_le {n : Nat} (c : BitVec n) : (c.setWidth 32).toNat ≤ c.toNat := by
  rw [BitVec.toNat_setWidth]
  exact Nat.mod_le _ _

theorem ofNat_toNat_le (n : Nat) : (BitVec.ofNat 32 n).toNat ≤ n := by
  rw [BitVec.toNat_ofNat]
  exact Nat.mod_le _ _

theorem mcs (b : Byte) : Statement (.mcs b) := fun ctx _ => byte_fits b ctx

theorem len (b : Byte) : Statement (.len b) := fun ctx _ => byte_fits b ctx

theorem data (b : Byte) : Statement (.data b) := fun ctx _ => byte_fits b ctx

theorem term : Statement .term := fun ctx _ => byte_fits 0 ctx

theorem clr : Statement .clr := by
  intro ctx h
  exact held_fits (Bool.and_eq_true_iff.1 h).2 (ofNat_toNat_le _)

theorem stop : Statement .stop := by
  intro ctx h
  exact held_fits (Bool.and_eq_true_iff.1 h).2 (ofNat_toNat_le _)

theorem inv (c : Code) : Statement (.inv c) := by
  intro ctx h
  simp only [Instr.fits, Bool.and_eq_true] at h
  exact held_fits h.1.1 (code_toNat_le c)

theorem lit (c : Code) : Statement (.lit c) := by
  intro ctx h
  simp only [Instr.fits, Bool.and_eq_true] at h
  exact held_fits h.1.2 (code_toNat_le c)

theorem kwk (c : Code) : Statement (.kwk c) := by
  intro ctx h
  simp only [Instr.fits, Bool.and_eq_true] at h
  exact held_fits h.1.1.1 (code_toNat_le c)

theorem ref (c : Code) : Statement (.ref c) := by
  intro ctx h
  simp only [Instr.fits, Bool.and_eq_true] at h
  exact held_fits h.1.1 (code_toNat_le c)

theorem clrS2 : Statement .clrS2 := fun _ h => held_fits (Bool.and_eq_true_iff.1 h).2 le_rfl

theorem clrS3 : Statement .clrS3 := fun _ h => held_fits (Bool.and_eq_true_iff.1 h).2 le_rfl

theorem clrS4 : Statement .clrS4 := fun _ h => held_fits (Bool.and_eq_true_iff.1 h).2 le_rfl

theorem clrS5 : Statement .clrS5 := fun _ h => held_fits (Bool.and_eq_true_iff.1 h).2 le_rfl

theorem clrS6 : Statement .clrS6 := fun _ h => held_fits (Bool.and_eq_true_iff.1 h).2 le_rfl

theorem clrS7 : Statement .clrS7 := fun _ h => held_fits (Bool.and_eq_true_iff.1 h).2 le_rfl

theorem clrS8 : Statement .clrS8 := fun _ h => held_fits (Bool.and_eq_true_iff.1 h).2 le_rfl

theorem stopS2 : Statement .stopS2 := fun _ h => held_fits (Bool.and_eq_true_iff.1 h).2 le_rfl

theorem stopS3 : Statement .stopS3 := fun _ h => held_fits (Bool.and_eq_true_iff.1 h).2 le_rfl

theorem stopS4 : Statement .stopS4 := fun _ h => held_fits (Bool.and_eq_true_iff.1 h).2 le_rfl

theorem stopS5 : Statement .stopS5 := fun _ h => held_fits (Bool.and_eq_true_iff.1 h).2 le_rfl

theorem stopS6 : Statement .stopS6 := fun _ h => held_fits (Bool.and_eq_true_iff.1 h).2 le_rfl

theorem stopS7 : Statement .stopS7 := fun _ h => held_fits (Bool.and_eq_true_iff.1 h).2 le_rfl

theorem stopS8 : Statement .stopS8 := fun _ h => held_fits (Bool.and_eq_true_iff.1 h).2 le_rfl

theorem litS2 (c : BitVec 2) : Statement (.litS2 c) := by
  intro ctx h
  simp only [Instr.fits, Bool.and_eq_true] at h
  exact held_fits h.1.2 (code_toNat_le c)

theorem litS3 (c : BitVec 3) : Statement (.litS3 c) := by
  intro ctx h
  simp only [Instr.fits, Bool.and_eq_true] at h
  exact held_fits h.1.2 (code_toNat_le c)

theorem litS4 (c : BitVec 4) : Statement (.litS4 c) := by
  intro ctx h
  simp only [Instr.fits, Bool.and_eq_true] at h
  exact held_fits h.1.2 (code_toNat_le c)

theorem litS5 (c : BitVec 5) : Statement (.litS5 c) := by
  intro ctx h
  simp only [Instr.fits, Bool.and_eq_true] at h
  exact held_fits h.1.2 (code_toNat_le c)

theorem litS6 (c : BitVec 6) : Statement (.litS6 c) := by
  intro ctx h
  simp only [Instr.fits, Bool.and_eq_true] at h
  exact held_fits h.1.2 (code_toNat_le c)

theorem litS7 (c : BitVec 7) : Statement (.litS7 c) := by
  intro ctx h
  simp only [Instr.fits, Bool.and_eq_true] at h
  exact held_fits h.1.2 (code_toNat_le c)

theorem litS8 (c : BitVec 8) : Statement (.litS8 c) := by
  intro ctx h
  simp only [Instr.fits, Bool.and_eq_true] at h
  exact held_fits h.1.2 (code_toNat_le c)

theorem setOrigin (x y : BitVec 16) : Statement (.setOrigin x y) := fun _ h => word_fits _ (of_decide_eq_true h)

theorem setSubw (w : BitVec 16) : Statement (.setSubw w) := fun _ h => word_fits _ (of_decide_eq_true h)

theorem setCanvas (cw ch : BitVec 16) : Statement (.setCanvas cw ch) := fun _ h => word_fits _ (of_decide_eq_true h)

theorem start : Statement .start := fun _ h => word_fits _ (of_decide_eq_true h)

end Sys2Proof.Laws.RowUnit
end

