-- ==== Sys2Proof/Tests/Slice0.lean ====
section
/-!
SUPPORT. The model's own tests: ill-formed terms refused, words written out from the encodings, single steps against
the vectors of spec/95_test_vectors.md, and a witness for the hypotheses of each statement.
-/

namespace Sys2Proof.Tests

open Sys2Proof Sys2Proof.Machine

/-! ## Well-formedness -/

/-- R63: a length byte is not 0. -/
theorem test_wf_length : (Instr.len 0#8).wf = false ∧ (Instr.len 1#8).wf = true := by decide

/-- R69: a literal is below `2^8`. -/
theorem test_wf_literal : (Instr.lit 256#12).wf = false ∧ (Instr.lit 255#12).wf = true := by decide

/-- R69: the least entry count is 6. -/
theorem test_wf_table_codes :
    (Instr.inv 5#12).wf = false ∧ (Instr.kwk 5#12).wf = false ∧ (Instr.ref 5#12).wf = false ∧
    (Instr.inv 6#12).wf = true ∧ (Instr.kwk 6#12).wf = true ∧ (Instr.ref 6#12).wf = true := by decide

/-- R65: a byte token stands in its own place of the framing alone. -/
theorem test_fits_bytes :
    (Instr.mcs 2#8).fits (.byte .length) = false ∧ (Instr.len 2#8).fits (.byte .data) = false ∧
    (Instr.data 2#8).fits (.byte .length) = false ∧ Instr.term.fits (.byte .data) = false ∧
    Instr.term.fits (.byte .length) = true := by decide

/-- R68: the class conditions exclude one another at their boundaries. -/
theorem test_fits_codes :
    (Instr.ref 8#12).fits (.code 2 9 true 4) = false ∧ (Instr.ref 8#12).fits (.code 2 9 false 4) = true ∧
    (Instr.kwk 8#12).fits (.code 2 9 false 4) = false ∧ (Instr.kwk 8#12).fits (.code 2 9 true 4) = true ∧
    (Instr.inv 8#12).fits (.code 2 9 true 4) = false ∧ (Instr.inv 9#12).fits (.code 2 9 true 4) = true ∧
    (Instr.inv 9#12).fits (.code 2 9 true 3) = false ∧ (Instr.ref 4#12).fits (.code 2 9 true 4) = false ∧
    Instr.clrS2.fits (.code 3 10 false 4) = false ∧ (Instr.litS3 7#3).fits (.code 3 10 false 4) = true := by decide

/-- R73: a command stands at its own offset alone. -/
theorem test_fits_host :
    Instr.start.fits (.hostWrite 0x04) = false ∧ (Instr.setSubw 1#16).fits (.hostWrite 0x10) = false ∧
    (Instr.setOrigin 1#16 1#16).fits (.hostWrite 0x0C) = false ∧
    (Instr.setCanvas 1#16 1#16).fits (.hostWrite 0x08) = false := by decide

/-! ## Words written out from the encodings -/

/-- R62 to R65. -/
theorem test_decode_bytes :
    decode (.byte .first) 0b00001000#32 = .ok (.mcs 8#8) ∧ decode (.byte .length) 0b10000001#32 = .ok (.len 129#8) ∧
    decode (.byte .data) 0b10001100#32 = .ok (.data 0x8C#8) ∧ decode (.byte .length) 0b00000000#32 = .ok .term ∧
    decode (.byte .data) 0b100000000#32 = .error .tooWide := by decide

/-- R69: the clear code of each size, `2^S`, at `S + 1` bits. -/
theorem test_decode_clear :
    decode (.code 2 6 false 3) 0b100#32 = .ok .clrS2 ∧ decode (.code 3 10 false 4) 0b1000#32 = .ok .clrS3 ∧
    decode (.code 4 18 false 5) 0b10000#32 = .ok .clrS4 ∧ decode (.code 5 34 false 6) 0b100000#32 = .ok .clrS5 ∧
    decode (.code 6 66 false 7) 0b1000000#32 = .ok .clrS6 ∧
    decode (.code 7 130 false 8) 0b10000000#32 = .ok .clrS7 ∧
    decode (.code 8 258 false 9) 0b100000000#32 = .ok .clrS8 ∧
    decode (.code 9 514 false 10) 0b1000000000#32 = .ok .clr := by decide

/-- R69: the stop code of each size, `2^S + 1`. -/
theorem test_decode_stop :
    decode (.code 2 6 false 3) 0b101#32 = .ok .stopS2 ∧ decode (.code 3 10 false 4) 0b1001#32 = .ok .stopS3 ∧
    decode (.code 4 18 false 5) 0b10001#32 = .ok .stopS4 ∧ decode (.code 5 34 false 6) 0b100001#32 = .ok .stopS5 ∧
    decode (.code 6 66 false 7) 0b1000001#32 = .ok .stopS6 ∧
    decode (.code 7 130 false 8) 0b10000001#32 = .ok .stopS7 ∧
    decode (.code 8 258 false 9) 0b100000001#32 = .ok .stopS8 ∧
    decode (.code 9 514 false 10) 0b1000000001#32 = .ok .stop := by decide

/-- R69: the greatest literal of each size, `2^S - 1`. -/
theorem test_decode_literal :
    decode (.code 2 6 false 3) 0b011#32 = .ok (.litS2 3#2) ∧ decode (.code 3 10 false 4) 0b0111#32 = .ok (.litS3 7#3) ∧
    decode (.code 4 18 false 5) 0b01111#32 = .ok (.litS4 15#4) ∧
    decode (.code 5 34 false 6) 0b011111#32 = .ok (.litS5 31#5) ∧
    decode (.code 6 66 false 7) 0b0111111#32 = .ok (.litS6 63#6) ∧
    decode (.code 7 130 false 8) 0b01111111#32 = .ok (.litS7 127#7) ∧
    decode (.code 8 258 false 9) 0b011111111#32 = .ok (.litS8 255#8) ∧
    decode (.code 9 514 false 10) 0b0111111111#32 = .ok (.lit 511#12) := by decide

/-- R68: invalid, self-reference and reference around the entry count. -/
theorem test_decode_table_codes :
    decode (.code 2 9 true 4) 0b1001#32 = .ok (.inv 9#12) ∧ decode (.code 2 9 true 4) 0b1000#32 = .ok (.kwk 8#12) ∧
    decode (.code 2 9 true 4) 0b0111#32 = .ok (.ref 7#12) ∧
    decode (.code 2 4096 false 12) 0b111111111111#32 = .ok (.ref 4095#12) ∧
    decode (.code 2 9 true 4) 0b10000#32 = .error .tooWide := by decide

/-- R73, R143 (V14 steps 2, 3 and 4). -/
theorem test_decode_host_writes :
    decode (.hostWrite 0x08) 0x00020001#32 = .ok (.setOrigin 1#16 2#16) ∧
    decode (.hostWrite 0x0C) 0xABCD0003#32 = .ok (.setSubw 3#16) ∧
    decode (.hostWrite 0x10) 0x00040005#32 = .ok (.setCanvas 5#16 4#16) ∧
    decode (.hostWrite 0x00) 0x00000001#32 = .ok .start ∧
    decode (.hostWrite 0x00) 0xFFFFFFFE#32 = .error .ignoredWrite ∧
    decode (.hostWrite 0x14) 7#32 = .error .ignoredWrite ∧
    decode (.hostWrite 0x20) 1#32 = .error .noRegister := by decide

/-- The table's own numbering of bits (log 10). -/
theorem test_decode_table_words :
    decodeTableWord 8 2 = some (.mcs 2#8) ∧ decodeTableWord 8 0 = some .term ∧
    decodeTableWord 16 257 = some .stopS8 ∧ decodeTableWord 16 63 = some (.litS6 63#6) ∧
    decodeTableWord 16 4095 = none ∧ decodeTableWord 32 1 = some .start := by decide

/-! ## Helpers -/

/-- The state a result leaves, if it leaves one. -/
def after (r : Result) : Option State :=
  match r with
  | .next t => some t
  | _ => none

/-- `STATUS`, `OFFSET`, `INFO` and `LZWSTAT` after a result, as numbers. -/
def seen (r : Result) : Option (Nat × Nat × Nat × Nat) :=
  (after r).map fun t => ((statusWord t).toNat, t.off.toNat, t.info.toNat, (lzwstatWord t).toNat)

/-- The bit reader after a result, and how many bytes of the source are left. -/
def reader (r : Result) : Option (Nat × Nat × Nat × Nat) :=
  (after r).map fun t => (t.cur.toNat, t.shift.toNat, t.subrem.toNat, t.bs.length)

/-- The frame buffer after a result. -/
def pixels (r : Result) : Option (List Host.Cell) := (after r).map fun t => t.fb

/-- The result of `ReadCode` and the bit reader after it. -/
def readSeen (m : Flow Nat) : Option (Nat × Nat × Nat × Nat × List Byte) :=
  match m with
  | .go c t => some (c, t.cur.toNat, t.shift.toNat, t.subrem.toNat, t.bs)
  | .halt _ => none

/-- A bit reader in front of some bytes. -/
def readerAt (cur shift subrem : Nat) (bytes : List Byte) : State :=
  { State.reset with
    state := .busy
    cur := BitVec.ofNat 8 cur
    shift := BitVec.ofNat 3 shift
    subrem := BitVec.ofNat 8 subrem
    bs := bytes }

/-- A block that has been told its geometry (`X`, `Y`, `W`, `CW`, `CH`) and its source. -/
def idleAt (x y w cw ch : BitVec 16) (bytes : List Byte) : State :=
  { State.reset with
    x := x
    y := y
    w := w
    cw := cw
    ch := ch
    bs := bytes }

/-- V3 before `INIT`. -/
def v3Started : State := started (idleAt 0 0 2 2 2 [0x02, 0x02, 0x8C, 0x51, 0x00])

/-- V3 after `INIT`: the four root entries of R100, `NENT = 6`. -/
def v3Seeded : State :=
  { v3Started with
    bs := [0x02, 0x8C, 0x51, 0x00]
    ports := [.consumed 2]
    phase := .symbol
    size := 2
    width := 3
    nent := 6
    table := [(0, ⟨1, none, 0⟩), (1, ⟨1, none, 1⟩), (2, ⟨1, none, 2⟩), (3, ⟨1, none, 3⟩)] }

/-- V3 after `SYMBOL` 1, the clear code. -/
def v3Cleared : State :=
  { v3Seeded with
    cur := 0x8C
    shift := 3
    subrem := 1
    bs := [0x51, 0x00]
    ports := [.consumed 0x8C, .consumed 2, .consumed 2] }

/-- V3 after `SYMBOL` 2, the literal 1. -/
def v3First : State :=
  { v3Cleared with
    shift := 6
    hasPrev := true
    prevCode := 1
    prevLen := 1
    prevFirst := 1
    off := 1
    fb := [(0, 1)]
    ports := [.wrote 0 1, .consumed 0x8C, .consumed 2, .consumed 2] }

/-- V3 after `SYMBOL` 3, the self-reference 6. -/
def v3Self : State :=
  { v3First with
    cur := 0x51
    shift := 1
    subrem := 0
    bs := [0x00]
    nent := 7
    prevCode := 6
    prevLen := 2
    off := 3
    fb := [(0, 1), (1, 1), (2, 1)]
    ports := [.wrote 1 1, .wrote 2 1, .consumed 0x51, .wrote 0 1, .consumed 0x8C, .consumed 2, .consumed 2]
    table := [(0, ⟨1, none, 0⟩), (1, ⟨1, none, 1⟩), (2, ⟨1, none, 2⟩), (3, ⟨1, none, 3⟩), (6, ⟨2, some 1, 1⟩)] }

/-- V3 after `SYMBOL` 4, the literal 0: the width has grown. -/
def v3Grown : State :=
  { v3Self with
    shift := 4
    width := 4
    nent := 8
    prevCode := 0
    prevLen := 1
    prevFirst := 0
    off := 4
    fb := [(0, 1), (1, 1), (2, 1), (3, 0)]
    ports := .wrote 3 0 :: v3Self.ports
    table := [(0, ⟨1, none, 0⟩), (1, ⟨1, none, 1⟩), (2, ⟨1, none, 2⟩), (3, ⟨1, none, 3⟩), (6, ⟨2, some 1, 1⟩),
      (7, ⟨3, some 6, 0⟩)] }

/-! ## Steps of the vectors -/

/-- V3, `START` and `INIT`. -/
theorem test_v3_start_init :
    exec .start (idleAt 0 0 2 2 2 [0x02, 0x02, 0x8C, 0x51, 0x00]) = .next v3Started ∧
    step v3Started = .next v3Seeded := ⟨rfl, rfl⟩

/-- V3, `SYMBOL` 1: the clear code 4. -/
theorem test_v3_clear : step v3Seeded = .next v3Cleared := rfl

/-- V3, `SYMBOL` 2: the literal 1 at 3 bits. -/
theorem test_v3_literal : step v3Cleared = .next v3First := rfl

/-- V3, `SYMBOL` 3: the code 6 that its own step inserts; `0x51` is consumed, then pixel 2, then pixel 1 written. -/
theorem test_v3_self_reference : step v3First = .next v3Self := rfl

/-- V3, `SYMBOL` 4: fetched at 3 bits although `NENT` is 8; the repair of `T[7]`; the growth. -/
theorem test_v3_growth : step v3Self = .next v3Grown := rfl

/-- V3, `SYMBOL` 5: the stop code 5 at 4 bits; `Drain` reads `00`. -/
theorem test_v3_stop :
    seen (step v3Grown) = some (0x00000002, 4, 0, 0x00090264) ∧ reader (step v3Grown) = some (0x51, 0, 0, 0) := by
  decide

/-- V6a.3, V6b, V6c.1, V6e: codes over one, two and three bytes and over two sub-blocks. -/
theorem test_v6_read_code :
    readSeen (readCode 3 (readerAt 0x8C 6 1 [0x51, 0x00])) = some (6, 0x51, 1, 0, [0x00]) ∧
    readSeen (readCode 12 (readerAt 0xA0 5 0 [0x03, 0xFF, 0x00, 0xFF])) = some (0x7FD, 0x00, 1, 1, [0xFF]) ∧
    readSeen (readCode 12 (readerAt 0 0 0 [0x01, 0xAB, 0x01, 0xCD, 0x00])) = some (0xDAB, 0xCD, 4, 0, [0x00]) ∧
    readSeen (readCode 10 (readerAt 0x80 7 0 [0x02, 0x55, 0x01])) = some (0x2AB, 0x01, 1, 0, []) := ⟨rfl, rfl, rfl, rfl⟩

/-- V6f: the terminator in front of a code that has two of its bits. -/
theorem test_v6_premature_terminator :
    seen (outcomeOf (andThen (readCode 5 (readerAt 0xC0 6 0 [0x00, 0x99])) fun _ s => .go () s)) =
      some (0x33, 0, 2, 0) := by decide

/-- V1 in front of its stop code, with the bytes of V8a, V8b and V8c behind it. -/
def v8At (cur subrem : Nat) (bytes : List Byte) : State :=
  { v3Seeded with
    w := 1
    cw := 1
    ch := 1
    hasPrev := true
    prevLen := 1
    off := 1
    cur := BitVec.ofNat 8 cur
    shift := 3
    subrem := BitVec.ofNat 8 subrem
    bs := bytes
    fb := [(0, 0)] }

/-- V8a, V8b, V8c: what `Drain` discards, and what it leaves. -/
theorem test_v8_drain :
    seen (step (v8At 0x28 1 [0xFF, 0x00])) = some (0x00000102, 1, 0, 0x00070263) ∧
    seen (step (v8At 0x28 0 [0x02, 0xAA, 0xBB, 0x00, 0x3B])) = some (0x00000102, 1, 0, 0x00070263) ∧
    reader (step (v8At 0x28 0 [0x02, 0xAA, 0xBB, 0x00, 0x3B])) = some (0x28, 0, 0, 1) ∧
    seen (step (v8At 0xE8 0 [0x00, 0x2C])) = some (0x00000002, 1, 0, 0x00070263) := by decide

/-- P1 before step 6: the reference 6. -/
def p1AtReference : State :=
  { v3Seeded with
    x := 1
    y := 1
    w := 3
    cw := 5
    ch := 4
    bs := [0x00]
    cur := 0x56
    shift := 0
    subrem := 1
    width := 4
    nent := 9
    hasPrev := true
    prevCode := 3
    prevLen := 1
    prevFirst := 3
    off := 4
    fb := [(6, 0), (7, 1), (8, 2), (11, 3)]
    table := [(0, ⟨1, none, 0⟩), (1, ⟨1, none, 1⟩), (2, ⟨1, none, 2⟩), (3, ⟨1, none, 3⟩), (6, ⟨2, some 0, 1⟩),
      (7, ⟨2, some 1, 2⟩), (8, ⟨2, some 2, 3⟩)] }

/-- P1, step 6: pixels 4 and 5 at addresses 12 and 13, `T[9]` repaired to suffix 0. -/
theorem test_p1_reference :
    seen (step { p1AtReference with bs := [0x56, 0x00] }) = some (0x00000001, 6, 0, 0x000A0264) ∧
    pixels (step { p1AtReference with bs := [0x56, 0x00] }) =
      some [(6, 0), (7, 1), (8, 2), (11, 3), (12, 0), (13, 1)] ∧
    (after (step { p1AtReference with bs := [0x56, 0x00] })).bind (fun t => lookup t.table 9) =
      some ⟨2, some 3, 0⟩ ∧
    (after (step { p1AtReference with bs := [0x56, 0x00] })).map (fun t => t.ports.take 3) =
      some [.wrote 12 0, .wrote 13 1, .consumed 0x56] := by decide

/-- P4's last step: the code 12 at `NENT = 9`; the growth of step 4 stands, the table's newest entry is not repaired. -/
theorem test_p4_invalid_code :
    seen (exec (.inv 12#12) { p1AtReference with off := 3 }) = some (0x00000053, 3, 12, 0x00090264) := by decide

/-- V7q: an empty canvas faults at the first pixel, before `HASPREV` is set. -/
theorem test_v7_empty_canvas :
    seen (step { v3Cleared with w := 1, cw := 0, ch := 0, cur := 0x44, bs := [0x01, 0x00] }) =
      some (0x00000063, 0, 0, 0x00060243) := by decide

/-- V7p's fault: an insertion at index 258 with `TABLE_DEPTH = 258`. -/
theorem test_out_of_memory :
    seen (step { v3First with
      params := { Params.default with tableDepth := 258 }, nent := 258 }) =
      some (0x00000013, 1, 258, 0x01020263) := by decide

/-- The `INIT` faults (R153, R155, R157): `BadMinCodeSize`, `UnexpectedEof`, `BadGeometry`. -/
theorem test_init_faults :
    seen (step { v3Started with bs := [0x09] }) = some (0x00000023, 0, 9, 0) ∧
    seen (step { v3Started with bs := [] }) = some (0x00000043, 0, 0, 0) ∧
    seen (step { v3Started with w := 0, bs := [] }) = some (0x00000073, 0, 0, 0) := by decide

/-- V14 steps 2 and 5: a geometry write outside `BUSY` and while `BUSY`. -/
theorem test_v14_geometry :
    (after (step { State.reset with env := [.write 32 0x0C 0xABCD0003] })).map (fun t => t.w) = some 3#16 ∧
    (after (step { v3Seeded with env := [.write 32 0x0C 9] })).map (fun t => t.w) = some 2#16 ∧
    (after (step { State.reset with env := [.write 32 0x08 0x00020001] })).map (fun t => (t.x, t.y)) =
      some (1#16, 2#16) ∧
    (after (step { State.reset with env := [.write 32 0x10 0x00040005] })).map (fun t => (t.cw, t.ch)) =
      some (5#16, 4#16) := by decide

/-- V14 steps 3, 4 and 10: an ignored write to `CTRL`, `START`, `START` from `FAULT` clearing the cause. -/
theorem test_v14_start :
    (after (step { State.reset with env := [.write 32 0x00 0xFFFFFFFE] })).map statusWord = some 0x00000000 ∧
    (after (step { State.reset with env := [.write 32 0x00 1] })).map statusWord = some 0x00000001 ∧
    (after (step { faulted .badGeometry 0 State.reset with env := [.write 32 0x00 1] })).map statusWord =
      some 0x00000001 := by decide

/-- V14 step 6: what a register read of `LZWSTAT` returns after `INIT`. -/
theorem test_v14_read :
    (after (step { v3Seeded with env := [.read 32 0x1C] })).map (fun t => t.hostData) = some (some 0x00060243) ∧
    step { v3Seeded with env := [.read 32 0x20] } = .refused .registerAccess := ⟨rfl, rfl⟩

/-- The per-size clear rows (R69, V4's `LZWSTAT` fields after a clear): width `S + 1` and count `2^S + 2`. -/
theorem test_clear_rows :
    (after (exec .clrS3 v3Grown)).map (fun t => (t.width.toNat, t.nent.toNat, t.hasPrev)) = some (4, 10, false) ∧
    (after (exec .clrS8 v3Grown)).map (fun t => (t.width.toNat, t.nent.toNat, t.hasPrev)) = some (9, 258, false) ∧
    (after (exec .clr v3Grown)).map (fun t => (t.width.toNat, t.nent.toNat, t.hasPrev)) = some (3, 6, false) := by
  decide

/-- The per-size literal rows: one pixel of the literal's value at `OFF`. -/
theorem test_literal_rows :
    pixels (exec (.litS2 3#2) v3First) = some [(0, 1), (1, 3)] ∧
    pixels (exec (.lit 2#12) v3First) = some [(0, 1), (1, 2)] ∧
    pixels (exec (.kwk 6#12) { v3Self with off := 1 }) = some [(0, 1), (1, 1), (2, 1)] := by decide

/-- The byte tokens: `LEN` and `DATA` for a code and for `Drain` (R82, R85). -/
theorem test_byte_tokens :
    reader (exec (.len 5#8) (readerAt 0 0 0 [7])) = some (0, 0, 5, 1) ∧
    reader (exec (.data 7#8) (readerAt 0 0 5 [])) = some (7, 0, 4, 0) ∧
    seen (exec .term (readerAt 0 3 0 [])) = some (0x33, 0, 0, 0) := by decide

/-- A row of each format is the first instruction after reset once placed (logs 10, 11). -/
theorem test_placed_instructions :
    step (State.reset.withFetchWord 8 2) = exec (.mcs 2#8) { runStarted State.reset with bs := [], ports := [.consumed 2#8] } ∧
    seen (step (State.reset.withFetchWord 16 5)) = some (0x00000102, 0, 0, 0x00060243) ∧
    seen (step (State.reset.withFetchWord 8 0)) = some (0x00000002, 0, 0, 0x00060243) ∧
    seen (step (State.reset.withFetchWord 32 1)) = some (0x00000001, 0, 0, 0) := ⟨rfl, rfl, rfl, rfl⟩

/-! ## Witnesses: concrete values that meet the hypotheses of each statement -/

/-- No key of a table lies at or above a bound: nothing is stored there. -/
theorem lookup_above {α : Type} (m : List (Nat × α)) (n i : Nat) (h : ∀ e ∈ m, e.1 < n) (hi : n ≤ i) :
    lookup m i = none := by
  induction m with
  | nil => rfl
  | cons e r ih =>
    have he := h e (by simp)
    rw [show e = (e.1, e.2) from rfl, lookup, if_neg (by omega)]
    exact ih fun f hf => h f (by simp [hf])

theorem witness_inv_reset : Inv State.reset where
  params := by decide
  rest := rfl
  frameForm := rfl
  tableForm := rfl
  cause := by decide
  info := fun _ => rfl
  noTable := fun _ => rfl
  noTrail := fun _ => rfl
  starting := fun h => nomatch h
  registers := fun h => nomatch h
  decoding := fun h => nomatch h

theorem witness_inv_started : Inv v3Started where
  params := by decide
  rest := rfl
  frameForm := rfl
  tableForm := rfl
  cause := by decide
  info := fun _ => rfl
  noTable := fun _ => rfl
  noTrail := fun _ => rfl
  starting := fun _ _ => by constructor <;> rfl
  registers := fun _ h => nomatch h
  decoding := fun _ h => nomatch h

theorem witness_inv_cleared : Inv v3Cleared where
  params := by decide
  rest := rfl
  frameForm := rfl
  tableForm := rfl
  cause := by decide
  info := fun _ => rfl
  noTable := fun h => absurd rfl h
  noTrail := fun _ => rfl
  starting := fun _ h => nomatch h
  registers := fun _ _ => by constructor <;> decide
  decoding := fun _ _ =>
    { roots := by decide
      clearSlot := by decide
      stopSlot := by decide
      above := fun i hi => lookup_above _ 6 i (by decide) hi
      inserted := fun i h h' => absurd (show i < 6 from h') (by have : 6 ≤ i := h; omega)
      previous := fun h => nomatch h }

/-- V3 after the clear code, with any bit reader and any source: the invariant asks nothing of them. -/
theorem witness_inv_reader (c : Byte) (k : BitVec 3) (m : BitVec 8) (bytes : List Byte) :
    Inv { v3Cleared with cur := c, shift := k, subrem := m, bs := bytes } := by
  obtain ⟨h1, h2, h3, h4, h5, h6, h7, h8, _, h10, h11⟩ := witness_inv_cleared
  obtain ⟨r1, r2, r3, r4, r5, r6, r7, r8, r9⟩ := h10 rfl rfl
  obtain ⟨t1, t2, t3, t4, t5, t6⟩ := h11 rfl rfl
  exact ⟨h1, h2, h3, h4, h5, h6, h7, h8, fun _ h => (nomatch h), fun _ _ => ⟨r1, r2, r3, r4, r5, r6, r7, r8, r9⟩,
    fun _ _ => ⟨t1, t2, t3, t4, t5, t6⟩⟩

theorem witness_inv_first : Inv v3First where
  params := by decide
  rest := rfl
  frameForm := rfl
  tableForm := rfl
  cause := by decide
  info := fun _ => rfl
  noTable := fun h => absurd rfl h
  noTrail := fun _ => rfl
  starting := fun _ h => nomatch h
  registers := fun _ _ => by constructor <;> decide
  decoding := fun _ _ =>
    { roots := by decide
      clearSlot := by decide
      stopSlot := by decide
      above := fun i hi => lookup_above _ 6 i (by decide) hi
      inserted := fun i h h' => absurd (show i < 6 from h') (by have : 6 ≤ i := h; omega)
      previous := fun _ => ⟨by decide, [1], rfl, rfl, rfl⟩ }

theorem witness_inv_self : Inv v3Self where
  params := by decide
  rest := rfl
  frameForm := rfl
  tableForm := rfl
  cause := by decide
  info := fun _ => rfl
  noTable := fun h => absurd rfl h
  noTrail := fun _ => rfl
  starting := fun _ h => nomatch h
  registers := fun _ _ => by constructor <;> decide
  decoding := fun _ _ =>
    { roots := by decide
      clearSlot := by decide
      stopSlot := by decide
      above := fun i hi => lookup_above _ 7 i (by decide) hi
      inserted := fun i h h' => by
        obtain rfl : i = 6 := by
          have : 6 ≤ i := h
          have : i < 7 := h'
          omega
        exact ⟨⟨2, some 1, 1⟩, 1, ⟨1, none, 1⟩, by decide⟩
      previous := fun _ => ⟨by decide, [1, 1], rfl, rfl, rfl⟩ }

/-- The block's turn (O13, O28, O29, O47, O50, O51, O53 to O55): nothing left in the script, and a turn in front of an
event. -/
theorem witness_blockTurn :
    blockTurn v3First [] ∧ blockTurn { v3First with env := [.tick, .reset] } [.reset] ∧
    (∀ e, ¬blockTurn { v3First with env := [.reset] } e) :=
  ⟨.inl ⟨rfl, rfl⟩, .inr rfl, fun _ h => by
    rcases h with ⟨h, _⟩ | h
    · exact absurd h (by decide)
    · injection h with h _
      exact absurd h (by decide)⟩

/-- O1, with the greatest operand of several rows. -/
theorem witness_DecodeOfEncode :
    (Instr.kwk 4095#12).wf = true ∧ (Instr.kwk 4095#12).fits (.code 2 4096 true 12) = true ∧
    (Instr.len 255#8).wf = true ∧ (Instr.len 255#8).fits (.byte .length) = true ∧
    (Instr.setOrigin 65535#16 65535#16).wf = true ∧
    (Instr.setOrigin 65535#16 65535#16).fits (.hostWrite 0x08) = true := by decide

/-- O2. -/
theorem witness_EncodeOfDecode :
    (∀ off, Context.code 2 4096 true 12 ≠ .hostWrite off) ∧
    decode (.code 2 4096 true 12) 4095#32 = .ok (.kwk 4095#12) :=
  ⟨fun _ => Context.noConfusion, by decide⟩

/-- O3: each clause at the edge of its range; the least entry count of a size, and the greatest. -/
theorem witness_CodeClasses :
    (2 ^ 2 + 2 ≤ 6 ∧ (4#12).toNat = 2 ^ 2 ∧ (5#12).toNat = 2 ^ 2 + 1 ∧ 6 ≤ (6#12).toNat ∧ (3#12).toNat < 2 ^ 2) ∧
    (2 ^ 2 + 2 ≤ 7 ∧ 2 ^ 2 + 2 ≤ (6#12).toNat ∧ (6#12).toNat + 1 = 7) ∧
    (2 ^ 2 + 2 ≤ 4096 ∧ 2 ^ 2 + 2 ≤ (4095#12).toNat ∧ (4095#12).toNat < 4096) := by decide

/-- O4. -/
theorem witness_MaskRowsDecode : (2 ≤ 2 ∧ 2 ≤ 8 ∧ 2 ^ 2 + 2 ≤ 6) ∧ (2 ≤ 8 ∧ 8 ≤ 8 ∧ 2 ^ 8 + 2 ≤ 258) := by decide

/-- O7, O8: a code is read; in front of no byte, a terminator, a lone length byte, a sub-block, a data byte. -/
theorem witness_FetchDataByTokens :
    (readerAt 0 0 0 []).flight.draining = false ∧ (readerAt 0 0 0 []).subrem = 0#8 ∧ (readerAt 0 0 0 []).bs = [] ∧
    (readerAt 0 0 0 [0, 1]).subrem = 0#8 ∧ (readerAt 0 0 0 [0, 1]).bs = [0#8, 1#8] ∧
    (readerAt 0 0 0 [255]).bs = [255#8] ∧ (255#8) ≠ 0#8 ∧ (readerAt 0 0 0 [1, 7]).bs = [1#8, 7#8] ∧
    (readerAt 0 0 255 [7]).subrem ≠ 0#8 ∧ (readerAt 0 0 1 []).bs = [] := by decide

theorem witness_TokensOfACode : (readerAt 0 3 0 [0]).flight.draining = false := by decide

/-- O9: a trailing sub-block that just fits the source, and one that does not. -/
theorem witness_TokensOfADrain :
    ({ readerAt 0 3 0 [7, 0] with flight := { Flight.rest with draining := true } } : State).flight.draining = true ∧
    (2#8).toNat ≤ (readerAt 0 3 0 [7, 0]).bs.length ∧ (readerAt 0 3 0 [7, 0]).bs.length < (3#8).toNat := by decide

/-- O10: exactly as many bits as the code needs (V6b, and 3 of 3). -/
theorem witness_ReadCodeTakesNextBits :
    (3 ≤ 12 ∧ 12 ≤ 12 ∧ (readerAt 0xA0 5 0 [0x03, 0xFF, 0x00, 0xFF]).flight.draining = false ∧
      12 ≤ (unreadBits (readerAt 0xA0 5 0 [0x03, 0xFF, 0x00, 0xFF])).length) ∧
    (unreadBits (readerAt 0xA0 5 0 [0])).length = 3 := by decide

/-- O11 (V6f): two bits left of five, the terminator behind them; and a source that ends. -/
theorem witness_ReadCodeRunsOut :
    (3 ≤ 5 ∧ 5 ≤ 12 ∧ (readerAt 0xC0 6 0 [0x00, 0x99]).flight.draining = false ∧
      (unreadBits (readerAt 0xC0 6 0 [0x00, 0x99])).length < 5 ∧ afterTerminator 0 [0x00, 0x99] = some [0x99]) ∧
    (unreadBits (readerAt 0xC0 6 0 [0x02])).length < 5 ∧ afterTerminator 0 [0x02] = none := by decide

/-- O13: each of the tests of `INIT`; the sizes 1, 2, 8 and 9. -/
theorem witness_InitStep :
    (v3Started.state = .busy ∧ v3Started.phase = .init ∧ v3Started.w ≠ 0#16) ∧
    ({ v3Started with w := 0 } : State).w = 0#16 ∧ ({ v3Started with bs := [] } : State).bs = [] ∧
    v3Started.bs = [2#8, 2#8, 0x8C#8, 0x51#8, 0#8] ∧ (1#8).toNat < 2 ∧ 8 < (9#8).toNat ∧ 2 ≤ (2#8).toNat ∧
    (8#8).toNat ≤ 8 := by decide

/-- O14. -/
theorem witness_McsSeedsRoots : (2 ≤ (2#8).toNat ∧ (2#8).toNat ≤ 8) ∧ (2 ≤ (8#8).toNat ∧ (8#8).toNat ≤ 8) := by decide

/-- O15. -/
theorem witness_ClearCodeResets : 2 ≤ 2 ∧ 2 ≤ 8 ∧ v3Grown.size.toNat = 2 := by decide

/-- O16. -/
theorem witness_ClearAfterInit : 2 ≤ (2#8).toNat ∧ (2#8).toNat ≤ 8 ∧ ∃ t, exec (.mcs 2#8) v3Started = .next t :=
  ⟨by decide, by decide, _, rfl⟩

/-- O17. -/
theorem witness_PerSizeRowsAgree : 2 ≤ 2 ∧ 2 ≤ 8 ∧ v3First.size.toNat = 2 ∧ (3#12).toNat < 2 ^ 2 := by decide

/-- O18: the terminator next, a trailing sub-block before it, no terminator. -/
theorem witness_StopCodeEndsRun :
    isStopRow .stop ∧ isStopRow .stopS8 ∧ afterTerminator 0 [0, 0x3B] = some [0x3B] ∧
    afterTerminator 0 [0x02, 0xAA, 0xBB, 0x00] = some [] ∧ afterTerminator 1 [0xFF, 0x00] = some [] ∧
    afterTerminator 0 [0x02, 0xAA] = none ∧ afterTerminator 0 [] = none :=
  ⟨.inl rfl, .inr ⟨8, by decide, by decide, rfl⟩, by decide⟩

/-- O20: the last address inside the buffer, and the first outside it. -/
theorem witness_LiteralEmitsPixel :
    Instr.litS2 3#2 = literalRow 2 3#12 ∧ (3#12).toNat < 2 ^ 2 ∧
    lookup v3First.table (3#12).toNat = some { len := 1#13, pfx := none, suffix := (3#12).setWidth 8 } ∧
    v3First.w ≠ 0#16 ∧ fbAddr { v3First with off := 3 } 3 < frameBytes v3First ∧
    frameBytes v3First ≤ fbAddr { v3First with off := 4 } 4 := by decide

/-- O21: a reference of two pixels, the last at the last address of the buffer. -/
theorem witness_DataCodeEmitsRun :
    isDataRow (.ref 6#12) 6#12 ∧ runOf v3Grown.table walkFuel (6#12).toNat = some [1, 1] ∧ v3Grown.w ≠ 0#16 ∧
    pixelsInside { v3Grown with off := 2 } 2 [1#8, 1#8].length = true :=
  ⟨.inr (.inl rfl), rfl, by decide, by decide⟩

/-- O22: a sub-image as wide as the canvas. -/
theorem witness_RunPixelsPlaced :
    v3Grown.w ≠ 0#16 ∧ v3Grown.w.toNat ≤ v3Grown.cw.toNat ∧ 1 < [1#8, 1#8].length := by decide

/-- O23. -/
theorem witness_DataCodeFrame :
    isDataRow (.ref 6#12) 6#12 ∧ runOf v3Grown.table walkFuel (6#12).toNat = some [1, 1] ∧
    (∃ t, exec (.ref 6#12) { v3Grown with off := 2 } = .next t) ∧ ∃ t, exec (.ref 6#12) v3Grown = .next t :=
  ⟨.inr (.inl rfl), rfl, ⟨_, rfl⟩, _, rfl⟩

/-- O24: the lower pixel inside and the higher outside; both outside. -/
theorem witness_DataCodeOutOfRange :
    (isDataRow (.ref 6#12) 6#12 ∧ runOf v3Grown.table walkFuel (6#12).toNat = some [1, 1]) ∧ v3Grown.w ≠ 0#16 ∧
    (1 < [1#8, 1#8].length ∧ frameBytes v3Grown ≤ fbAddr { v3Grown with off := 3 } (3 + 1)) ∧
    ∀ j, 1 < j → j < [1#8, 1#8].length → fbAddr { v3Grown with off := 3 } (3 + j) < frameBytes v3Grown :=
  ⟨⟨.inr (.inl rfl), rfl⟩, by decide, by decide, fun j h h' => absurd (show j < 2 from h') (by omega)⟩

/-- O25, O26: a data code that completes in a step that inserted. -/
theorem witness_completed_data_code :
    isDataRow (.kwk 6#12) 6#12 ∧ v3First.state = .busy ∧
    ∃ t, exec (.kwk 6#12) (insertEntry v3First) = .next t ∧ t.state = .busy ∧
      (insertEntry v3First).flight.inserted = true :=
  ⟨.inr (.inr (.inl rfl)), rfl, _, rfl, rfl, rfl⟩

/-- O27: no room at `NENT = TABLE_DEPTH`; room for the last entry; nothing to insert. -/
theorem witness_InsertionPhase :
    (v3First.hasPrev = true ∧ v3First.full = false) ∧
    ({ v3First with nent := 258, params := { Params.default with tableDepth := 258 } } : State).params.tableDepth ≤ 258 ∧
    4095 < v3First.params.tableDepth ∧ v3Cleared.hasPrev = false := by decide

/-- O28, O29: `INIT`; a `SYMBOL` step that reads a code, one whose fetch ends the step, one whose insertion does. -/
theorem witness_StepRunsDecodedInstruction :
    (v3Started.env = [] ∧ v3Started.phase = .init ∧ v3Started.w ≠ 0#16) ∧
    (∃ t c u, insertPhase v3First = .go () t ∧ readCode t.width.toNat t = .go c u) ∧
    (∃ t o, insertPhase { v3First with bs := [] } = .go () t ∧ readCode t.width.toNat t = .halt o) ∧
    (∃ o, insertPhase { v3First with nent := 258, params := { Params.default with tableDepth := 258 } } = .halt o) ∧
    decode (.hostWrite 0x08) 0x00020001#32 = .ok (.setOrigin 1#16 2#16) :=
  ⟨by decide, ⟨_, _, _, rfl, rfl⟩, ⟨_, _, rfl, rfl⟩, ⟨_, rfl⟩, by decide⟩

/-- O29: a clear, a stop, an invalid and a data code, read from three bits of `CUR` in front of `NENT = 6`. -/
theorem witness_SymbolStepFollowsClass :
    readSeen (readCode 3 { v3Cleared with cur := 0b00100000, shift := 5 }) = some (2 ^ 2 - 3, 0x20, 0, 1, [0x51, 0]) ∧
    readSeen (readCode 3 { v3Cleared with cur := 0b10000000, shift := 5 }) = some (2 ^ 2, 0x80, 0, 1, [0x51, 0]) ∧
    readSeen (readCode 3 { v3Cleared with cur := 0b10100000, shift := 5 }) = some (2 ^ 2 + 1, 0xA0, 0, 1, [0x51, 0]) ∧
    readSeen (readCode 3 { v3Cleared with cur := 0b11000000, shift := 5 }) = some (6, 0xC0, 0, 1, [0x51, 0]) :=
  ⟨rfl, rfl, rfl, rfl⟩

/-- O30. -/
theorem witness_FetchWidthClosedForm :
    Inv v3Self ∧ v3Self.state = .busy ∧ v3Self.phase = .symbol ∧ ∃ t, insertPhase v3Self = .go () t :=
  ⟨witness_inv_self, rfl, rfl, _, rfl⟩

/-- O31. -/
theorem witness_SelfReferenceRun :
    Inv v3Self ∧ v3Self.state = .busy ∧ v3Self.phase = .symbol ∧ v3Self.hasPrev = true ∧ v3Self.full = false ∧
    (∃ t, insertPhase v3Self = .go () t) ∧ runOf v3Self.table walkFuel v3Self.prevCode.toNat = some [1, 1] :=
  ⟨witness_inv_self, rfl, rfl, rfl, rfl, ⟨_, rfl⟩, rfl⟩

/-- O32: the newest entry, and the greatest root. -/
theorem witness_ValidCodesResolve :
    Inv v3Self ∧ v3Self.state = .busy ∧ v3Self.phase = .symbol ∧ 6 < v3Self.nent.toNat ∧
    6 ≠ 2 ^ v3Self.size.toNat ∧ 6 ≠ 2 ^ v3Self.size.toNat + 1 ∧ 3 ≠ 2 ^ v3Self.size.toNat :=
  ⟨witness_inv_self, rfl, rfl, by decide⟩

/-- O33: the last pixel inside, the first outside. -/
theorem witness_PixelWrite :
    v3First.w ≠ 0#16 ∧ fbAddr v3First 3 < v3First.cw.toNat * v3First.ch.toNat ∧
    v3First.cw.toNat * v3First.ch.toNat ≤ fbAddr v3First 4 := by decide

/-- O34, O35, O36, O37, O40, O41: the events, and a state outside `BUSY` and one `BUSY`. -/
theorem witness_host_events :
    State.reset.state ≠ .busy ∧ v3First.state = .busy ∧
    ({ State.reset with env := [.write 32 0x08 1#32] } : State).env = [.write 32 0x08 1#32] ∧
    (1#32).getLsbD 0 = true ∧ (2#32).getLsbD 0 = false ∧ 0x1C ∈ [0x04, 0x14, 0x18, 0x1C] ∧
    0x20 ∉ [0x00, 0x04, 0x08, 0x0C, 0x10, 0x14, 0x18, 0x1C] ∧ 16 ≠ 32 ∧
    3 < frameBytes { v3First with state := .done } ∧ frameBytes { v3First with state := .done } ≤ 4 := by decide

/-- O38, O39. -/
theorem witness_read_words : (∃ v, regRead 0x04 v3First = some v) ∧ ∃ v, regRead 0x1C v3First = some v :=
  ⟨⟨_, rfl⟩, _, rfl⟩

/-- O42: a run abandoned, with a byte it could have written; an address that no pixel has, left of the sub-image. -/
theorem witness_HardwareReset :
    v3First.state = .busy ∧ v3First.w ≠ 0#16 ∧ fbAddr v3First 3 < frameBytes v3First ∧
    { v3Started with w := 0 }.w = 0#16 ∧ { v3Started with w := 0 }.state = .busy ∧
    ∀ p, fbAddr { v3First with x := 1, cw := 4, ch := 4 } p ≠ 0 :=
  ⟨rfl, by decide, by decide, rfl, rfl, fun p => by
    show (0 + p / 2) * 4 + 1 + p % 2 ≠ 0
    omega⟩

/-- O43. -/
theorem witness_ResetColumns :
    State.reset.state ≠ .busy ∧ (∃ t, exec .start State.reset = .next t) ∧
    ∃ t, 2 ≤ (8#8).toNat ∧ (8#8).toNat ≤ 8 ∧ exec (.mcs 8#8) v3Started = .next t :=
  ⟨by decide, ⟨_, rfl⟩, _, by decide, by decide, rfl⟩

/-- O45, O51: a step between two states of a decode. -/
theorem witness_StepKeepsInvariant :
    Inv v3Self ∧ v3Self.env = [] ∧ v3Self.state = .busy ∧ v3Self.phase = .symbol ∧ step v3Self = .next v3Grown ∧
    v3Grown.state = .busy :=
  ⟨witness_inv_self, rfl, rfl, rfl, test_v3_growth, rfl⟩

/-- O46, O49, O50. -/
theorem witness_StepKeepsCanonicalForm :
    Memory.wf v3Self.fb = true ∧ Memory.wf v3Self.table = true ∧ step v3Self = .next v3Grown ∧ v3Self.env = [] ∧
    v3Self.state = .busy :=
  ⟨rfl, rfl, test_v3_growth, rfl, rfl⟩

/-- O47: at reset, before `INIT`, before a literal and before a self-reference. -/
theorem witness_BlockNeverStops :
    (Inv State.reset ∧ State.reset.env = []) ∧ (Inv v3Started ∧ v3Started.env = []) ∧
    (Inv v3Cleared ∧ v3Cleared.env = []) ∧ Inv v3First ∧ v3First.env = [] :=
  ⟨⟨witness_inv_reset, rfl⟩, ⟨witness_inv_started, rfl⟩, ⟨witness_inv_cleared, rfl⟩, witness_inv_first, rfl⟩

/-- O48: `START` leaves `IDLE`, hardware reset leaves `DONE`. -/
theorem witness_OnlyStartOrResetLeavesRest :
    (State.reset.state ≠ .busy ∧
      ∃ t, step { State.reset with env := [.write 32 0x00 1] } = .next t ∧ t.state ≠ State.reset.state) ∧
    ∃ t, step { State.reset with state := .done, env := [.reset] } = .next t ∧ t.state ≠ .done :=
  ⟨⟨by decide, _, rfl, by decide⟩, _, rfl, by decide⟩

/-- O52. -/
theorem witness_NoOutOfMemoryAtFullDepth :
    Inv v3Self ∧ v3Self.params.tableDepth = 4096 ∧ v3Self.cause ≠ some .outOfMemory ∧
    step v3Self = .next v3Grown :=
  ⟨witness_inv_self, rfl, by decide, test_v3_growth⟩

/-- O53: V3's and V5's framing of the same data bytes. -/
theorem witness_FramingMakesNoDifference :
    Inv v3First ∧ v3First.env = [] ∧ v3First.state = .busy ∧ v3First.phase = .symbol ∧
    dataBytes (0#8).toNat [0x01, 0x51, 0x00] = dataBytes v3First.subrem.toNat v3First.bs ∧
    step v3First = .next v3Self ∧ v3Self.state = .busy :=
  ⟨witness_inv_first, rfl, rfl, rfl, rfl, test_v3_self_reference, rfl⟩

/-- O53, a step that ends the run: a stop code, the same two data bytes behind it in one sub-block and in two. -/
theorem witness_FramingAtTheEnd :
    Inv { v3Cleared with cur := 0xA0, shift := 5, subrem := 2, bs := [0x51, 0x07, 0x00] } ∧
    dataBytes (1#8).toNat [0x51, 0x01, 0x07, 0x00] = dataBytes (2#8).toNat [0x51, 0x07, 0x00] ∧
    (afterTerminator (2#8).toNat [0x51, 0x07, 0x00]).isSome = true ∧
    (afterTerminator (1#8).toNat [0x51, 0x01, 0x07, 0x00]).isSome = true ∧
    ∃ t, step { v3Cleared with cur := 0xA0, shift := 5, subrem := 2, bs := [0x51, 0x07, 0x00] } = .next t ∧
      t.state = .done :=
  ⟨witness_inv_reader _ _ _ _, rfl, rfl, rfl, _, rfl, rfl⟩

/-- O55: a step of the block, and an event that is none. -/
theorem witness_PortsShowStepOrder :
    step v3First = .next v3Self ∧ blockTurn v3First [] ∧ ∃ t, step { v3First with env := [.reset] } = .next t :=
  ⟨test_v3_self_reference, .inl ⟨rfl, rfl⟩, _, rfl⟩

/-- O54. -/
theorem witness_NothingEnabledOutsideBusy : State.reset.env = [] ∧ State.reset.state ≠ .busy := by decide

end Sys2Proof.Tests
end

section
/-!
The write of one pixel (R46): what the frame buffer shows after it, and O33.
-/
namespace Sys2Proof.Machine

/-! ## The frame buffer after a byte is written -/

theorem frameByte_putByte_same {a : Nat} {s : State} (v : Byte) (ha : a < frameBytes s) :
    frameByte (putByte a v s) a = some v := by
  have hin : a < frameBytes (putByte a v s) := ha
  rw [frameByte, if_pos hin, putByte_fb, lookup_store_same]

theorem frameByte_putByte_other {a b : Nat} (v : Byte) (s : State) (h : b ≠ a) :
    frameByte (putByte a v s) b = frameByte s b := by
  have hsize : frameBytes (putByte a v s) = frameBytes s := rfl
  rw [frameByte, frameByte, hsize, putByte_fb, lookup_store_other s.fb v h]

/-- Settles O33: inside the buffer the write is `putByte` at the pixel's address, outside it is the fault of R46. -/
theorem pixelWrite : Obligations.PixelWrite := by
  intro p v s hw
  constructor
  · intro inside
    have wrote : writePixel p v s = .go () (putByte (fbAddr s p) v s) :=
      writePixel_go.2 ⟨hw, inside, rfl⟩
    exact ⟨_, wrote, rfl, frameByte_putByte_same v inside,
      fun _ hne => frameByte_putByte_other v s hne⟩
  · intro outside
    exact writePixel_halt.2 (.inr ⟨hw, outside, rfl⟩)

end Sys2Proof.Machine
end

section
/-!
The width of a fetch (R70): what `bitlen` promises, the registers after the insertion phase, and O30.
-/
namespace Sys2Proof

/-- `bitlen v` bits are enough to write `v` (R6). -/
theorem lt_two_pow_bitlen (v : Nat) : v < 2 ^ bitlen v := by
  unfold bitlen
  split
  case isTrue h => simp [h]
  case isFalse => exact Nat.lt_log2_self

namespace Machine

/-- A 13-bit entry count within the cap of R105 counts on by one without wrapping. -/
theorem insertEntry_nent_toNat {s : State} (h : s.nent.toNat ≤ 4096) :
    (insertEntry s).nent.toNat = s.nent.toNat + 1 := by
  rw [insertEntry_nent, BitVec.toNat_add, BitVec.toNat_ofNat]
  omega

/-- A growth of the width waits until after the fetch (R104): the insertion phase leaves the register as it was. -/
theorem insertPhase_width {s t : State} (h : insertPhase s = .go () t) : t.width = s.width := by
  rcases insertPhase_cases s with ⟨-, -, -, hp⟩ | ⟨-, -, -, hp⟩ | ⟨-, hp⟩ <;> rw [hp] at h <;> cases h
  · exact insertEntry_width s
  · rfl

/-- The closed form of R70. An insertion moves the count on by one, which is what the invariant on a growing width
allows for; without one the frozen width already has the form. -/
theorem insertPhase_width_toNat {s t : State} (inv : RegisterInv s) (h : insertPhase s = .go () t) :
    t.width.toNat = max (t.size.toNat + 1) (bitlen (t.nent.toNat - 1)) := by
  rcases insertPhase_cases s with ⟨-, -, -, hp⟩ | ⟨prev, room, -, hp⟩ | ⟨still, hp⟩ <;> rw [hp] at h <;> cases h
  · rw [insertEntry_width, insertEntry_size, insertEntry_nent_toNat inv.nent.2, Nat.add_sub_cancel]
    exact inv.growingWidth prev room
  · exact inv.frozenWidth still

/-- Settles O30: the bounds follow from the closed form and from the width the invariant limits. -/
theorem fetchWidthClosedForm : Obligations.FetchWidthClosedForm := by
  intro s t inv busy symbol h
  have registers := inv.registers busy symbol
  have closed := insertPhase_width_toNat registers h
  have limit : t.width.toNat ≤ 12 := insertPhase_width h ▸ registers.widthLimit
  have enough : bitlen (t.nent.toNat - 1) ≤ t.width.toNat := closed ▸ Nat.le_max_right ..
  refine ⟨closed, closed ▸ Nat.le_max_left .., limit, ?_⟩
  calc t.nent.toNat - 1 < 2 ^ bitlen (t.nent.toNat - 1) := lt_two_pow_bitlen _
    _ ≤ 2 ^ t.width.toNat := Nat.pow_le_pow_right (by decide) enough

end Machine
end Sys2Proof
end

section
/-!
The byte source and the framer (R81, R82): what `NextByte` and `FetchData` are in front of each byte, and O6, O7.
-/
namespace Sys2Proof.Machine

/-! ## `NextByte` -/

theorem nextByte_of_empty {s : State} (h : s.bs = []) :
    nextByte s = .halt (.next (faulted .unexpectedEof s.off.toNat s)) :=
  nextByte_halt.2 ⟨h, rfl⟩

theorem nextByte_of_cons {s : State} {b : Byte} {r : List Byte} (h : s.bs = b :: r) :
    nextByte s = .go b (consume b r s) :=
  nextByte_go.2 ⟨h, rfl⟩

theorem andThen_nextByte_of_empty {β : Type} {s : State} (h : s.bs = []) (k : Byte → State → Flow β) :
    andThen (nextByte s) k = .halt (.next (faulted .unexpectedEof s.off.toNat s)) := by
  rw [nextByte_of_empty h, andThen_of_halt]

theorem andThen_nextByte_of_cons {β : Type} {s : State} {b : Byte} {r : List Byte} (h : s.bs = b :: r)
    (k : Byte → State → Flow β) : andThen (nextByte s) k = k b (consume b r s) := by
  rw [nextByte_of_cons h, andThen_of_go]

/-- `INFO` is as wide as `OFF`, so a fault that tells `OFF` leaves that register's value there whole. -/
theorem faulted_with_off (c : Cause) (s : State) :
    faulted c s.off.toNat s =
      { s with state := .fault, cause := some c, info := s.off, table := [], flight := Flight.rest } := by
  rw [faulted, BitVec.ofNat_toNat, BitVec.setWidth_eq]

/-- Settles O6: a source is empty or has a first byte; `INFO` is the value of `OFF`. -/
theorem nextByteTakesOne : Obligations.NextByteTakesOne := by
  intro s
  constructor
  · intro empty
    rw [nextByte_of_empty empty, faulted_with_off]
  · intro b r first
    exact nextByte_of_cons first

/-! ## The byte tokens while a code is read -/

theorem lenToken_of_code {s : State} (n : Byte) (code : s.flight.draining = false) :
    lenToken n s = .go () { s with subrem := n } := by
  simp [lenToken, code]

theorem dataToken_of_code {s : State} (d : Byte) (code : s.flight.draining = false) :
    dataToken d s = .go () { s with subrem := s.subrem - 1#8, cur := d } := by
  simp [dataToken, code]

theorem termToken_of_code {s : State} (code : s.flight.draining = false) :
    termToken s = .halt (.next (faulted .prematureTerminator s.flight.got s)) := by
  simp [termToken, code, raise]

theorem exec_len_of_code {s : State} (n : Byte) (code : s.flight.draining = false) :
    exec (.len n) s = .next { s with subrem := n } :=
  congrArg outcomeOf (lenToken_of_code n code)

theorem exec_data_of_code {s : State} (d : Byte) (code : s.flight.draining = false) :
    exec (.data d) s = .next { s with subrem := s.subrem - 1#8, cur := d } :=
  congrArg outcomeOf (dataToken_of_code d code)

theorem exec_term_of_code {s : State} (code : s.flight.draining = false) :
    exec .term s = .next (faulted .prematureTerminator s.flight.got s) :=
  congrArg outcomeOf (termToken_of_code code)

/-! ## `FetchData` -/

/-- Inside a sub-block `FetchData` is one data byte (R82). -/
theorem fetchData_of_open {s : State} (h : s.subrem ≠ 0#8) : fetchData s = andThen (nextByte s) dataToken := by
  rw [fetchData, if_neg h, andThen_of_go]

/-- At a length place `FetchData` is the token of the byte there, and a data byte if the step goes on (R82). -/
theorem fetchData_of_length {s : State} {n : Byte} {r : List Byte} (h : s.subrem = 0#8) (hb : s.bs = n :: r) :
    fetchData s = andThen (lengthToken n (consume n r s)) fun _ t => andThen (nextByte t) dataToken := by
  rw [fetchData, if_pos h, andThen_nextByte_of_cons hb]

theorem fetchData_of_empty {s : State} (hb : s.bs = []) :
    fetchData s = .halt (.next (faulted .unexpectedEof s.off.toNat s)) := by
  by_cases h : s.subrem = 0#8
  · rw [fetchData, if_pos h, andThen_nextByte_of_empty hb, andThen_of_halt]
  · rw [fetchData_of_open h, andThen_nextByte_of_empty hb]

/-- A terminator where a code needs bits (R82): no data byte is asked for behind it. -/
theorem fetchData_of_term {s : State} {r : List Byte} (code : s.flight.draining = false) (h : s.subrem = 0#8)
    (hb : s.bs = 0#8 :: r) :
    fetchData s = .halt (.next (faulted .prematureTerminator s.flight.got (consume 0#8 r s))) := by
  have token : lengthToken 0#8 (consume 0#8 r s) = _ := (if_pos rfl).trans (termToken_of_code code)
  rw [fetchData_of_length h hb, token, andThen_of_halt]
  rfl

/-- A length byte opens its sub-block, in which `FetchData` goes on with a data byte (R82). -/
theorem fetchData_of_len {s : State} {n : Byte} {r : List Byte} (code : s.flight.draining = false)
    (h : s.subrem = 0#8) (hn : n ≠ 0#8) (hb : s.bs = n :: r) :
    fetchData s = andThen (nextByte { consume n r s with subrem := n }) dataToken := by
  have token : lengthToken n (consume n r s) = _ := (if_neg hn).trans (lenToken_of_code n code)
  rw [fetchData_of_length h hb, token, andThen_of_go]

/-- Settles O7: a source without a byte, a length place by the byte there, a data place. -/
theorem fetchDataByTokens : Obligations.FetchDataByTokens := by
  intro s code
  refine ⟨fun _ => fetchData_of_empty, ?terminator, ?noData, ?subBlock, fun _ => fetchData_of_empty, ?dataByte⟩
  case terminator =>
    intro r closed hb
    have ends := fetchData_of_term code closed hb
    have token : exec .term (consume 0#8 r s) = _ := exec_term_of_code code
    exact ⟨ends.trans (congrArg Flow.halt token.symm), ends⟩
  case noData =>
    intro n closed hn hb
    calc fetchData s
      _ = andThen (nextByte { consume n [] s with subrem := n }) dataToken := fetchData_of_len code closed hn hb
      _ = _ := andThen_nextByte_of_empty rfl _
  case subBlock =>
    intro n d r closed hn hb
    refine ⟨_, _, exec_len_of_code n code, exec_data_of_code d code, ?_, rfl⟩
    calc fetchData s
      _ = andThen (nextByte { consume n (d :: r) s with subrem := n }) dataToken := fetchData_of_len code closed hn hb
      _ = dataToken d (consume d r { consume n (d :: r) s with subrem := n }) := andThen_nextByte_of_cons rfl _
      _ = _ := dataToken_of_code d code
  case dataByte =>
    intro d r opened hb
    refine ⟨_, exec_data_of_code d code, ?_, rfl⟩
    calc fetchData s
      _ = andThen (nextByte s) dataToken := fetchData_of_open opened
      _ = dataToken d (consume d r s) := andThen_nextByte_of_cons hb _
      _ = _ := dataToken_of_code d code

end Sys2Proof.Machine
end

section
/-!
The `INIT` step (R80): the block's turn in `P_INIT`, the tests on the size, and O13.
-/
namespace Sys2Proof.Machine

/-! ## The block's turn -/

/-- A turn of the block is the same whether it stands in the script or the script is empty (log 1). -/
theorem step_of_blockTurn {s : State} {e : List EnvEvent} (turn : blockTurn s e) :
    step s = runFetched (fetchBlock { s with env := e }) := by
  rcases turn with ⟨he, rfl⟩ | he
  · rw [step_of_no_event he, ← he]
  · rw [step_of_event he]
    rfl

theorem fetchBlock_of_init {s : State} (busy : s.state = .busy) (init : s.phase = .init) :
    fetchBlock s = fetchedOf (fetchInit s) := by
  simp only [fetchBlock, if_pos busy, init]

theorem step_of_init {s : State} {e : List EnvEvent} (turn : blockTurn s e) (busy : s.state = .busy)
    (init : s.phase = .init) : step s = runFetched (fetchedOf (fetchInit { s with env := e })) :=
  (step_of_blockTurn turn).trans (congrArg runFetched (fetchBlock_of_init busy init))

theorem step_of_init_halt {s : State} {e : List EnvEvent} {o : Result} (turn : blockTurn s e) (busy : s.state = .busy)
    (init : s.phase = .init) (h : fetchInit { s with env := e } = .halt o) : step s = o := by
  rw [step_of_init turn busy init, h]
  rfl

theorem step_of_init_go {s t : State} {e : List EnvEvent} {i : Instr} (turn : blockTurn s e) (busy : s.state = .busy)
    (init : s.phase = .init) (h : fetchInit { s with env := e } = .go i t) : step s = exec i t := by
  rw [step_of_init turn busy init, h]
  rfl

/-! ## The fetch of `INIT` -/

theorem fetchInit_of_zeroWidth {s : State} (h : s.w = 0#16) :
    fetchInit s = .halt (.next (faulted .badGeometry 0 s)) := if_pos h

theorem fetchInit_of_empty {s : State} (hw : s.w ≠ 0#16) (hb : s.bs = []) :
    fetchInit s = .halt (.next (faulted .unexpectedEof s.off.toNat s)) := by
  rw [fetchInit, if_neg hw, andThen_nextByte_of_empty hb]

theorem fetchInit_of_cons {s : State} {b : Byte} {r : List Byte} (hw : s.w ≠ 0#16) (hb : s.bs = b :: r) :
    fetchInit s = .go (.mcs b) (consume b r s) := by
  rw [fetchInit, if_neg hw, andThen_nextByte_of_cons hb]
  rfl

/-! ## The meaning of `MCS` -/

theorem exec_mcs_of_illegal {b : Byte} (s : State) (h : b.toNat < 2 ∨ 8 < b.toNat) :
    exec (.mcs b) s = .next (faulted .badMinCodeSize b.toNat s) := by
  have token : mcsToken b s = raise .badMinCodeSize b.toNat s := if_pos h
  exact congrArg outcomeOf token

theorem exec_mcs_of_legal {b : Byte} (s : State) (least : 2 ≤ b.toNat) (greatest : b.toNat ≤ 8) :
    exec (.mcs b) s = .next (seeded b.toNat s) := by
  have legal : ¬(b.toNat < sizeMin ∨ sizeMax < b.toNat) := by simp only [sizeMin, sizeMax]; omega
  have token : mcsToken b s = .go () (seeded b.toNat s) := if_neg legal
  exact congrArg outcomeOf token

/-- Settles O13: the geometry, the end of the source, then what `MCS` means for the byte that was there. -/
theorem initStep : Obligations.InitStep := by
  intro s e turn busy init
  refine ⟨?geometry, ?endOfSource, ?byte⟩
  case geometry => exact fun hw => step_of_init_halt turn busy init (fetchInit_of_zeroWidth hw)
  case endOfSource => exact fun hw hb => step_of_init_halt turn busy init (fetchInit_of_empty hw hb)
  case byte =>
    intro b r hw hb
    have runs : step s = exec (.mcs b) (consume b r { s with env := e }) :=
      step_of_init_go turn busy init (fetchInit_of_cons hw hb)
    refine ⟨runs, fun illegal => ?_, fun least greatest => ?_⟩
    · rw [runs, exec_mcs_of_illegal _ illegal]
      rfl
    · rw [runs, exec_mcs_of_legal _ least greatest]
      rfl

end Sys2Proof.Machine
end

section
/-!
The insertion phase (R102): the power-of-two test of `grow`, the state an insertion leaves, and O27.
-/
namespace Sys2Proof

theorem isPow2_iff {v : Nat} : isPow2 v = true ↔ ∃ k, v = 2 ^ k := by
  rw [isPow2, beq_iff_eq]
  constructor
  · exact fun h => ⟨_, h⟩
  · rintro ⟨k, rfl⟩
    rw [Nat.log2_two_pow]

/-- Of the numbers below `2 ^ n` the powers of two are those with an exponent below `n`. -/
theorem isPow2_eq_any_range {v n : Nat} (h : v < 2 ^ n) : isPow2 v = (List.range n).any fun k => v == 2 ^ k := by
  rw [Bool.eq_iff_iff, isPow2_iff, List.any_eq_true]
  constructor
  · rintro ⟨k, rfl⟩
    have hk : k < n := (Nat.pow_lt_pow_iff_right (by decide)).1 h
    exact ⟨k, List.mem_range.2 hk, beq_self_eq_true _⟩
  · rintro ⟨k, -, hv⟩
    exact ⟨k, eq_of_beq hv⟩

namespace Machine

theorem fullAt_eq_decide (n : BitVec 13) : fullAt n = decide (n.toNat = 4096) := rfl

/-- `grow` in the terms of R102 and R104: at the cap of R105 both sides are false, below it the exponents of the
table's sizes are the only ones to look at. -/
theorem growAt_eq_any_range {n : BitVec 13} (w : BitVec 4) (h : n.toNat ≤ 4096) :
    growAt n w =
      (decide (n.toNat < 4096) && decide (w.toNat < 12) && (List.range 12).any fun k => n.toNat == 2 ^ k) := by
  have ceiling : maxWidth = 12 := rfl
  rw [growAt, fullAt_eq_decide, ceiling]
  rcases Nat.lt_or_eq_of_le h with below | cap
  · rw [← isPow2_eq_any_range below]
    simp [below, below.ne, Bool.and_comm]
  · simp [cap]

/-- What an insertion below the cap leaves (R102): the entry, the count moved on, `FULL` and the flags of the step. -/
theorem insertEntry_of_below_cap {s : State} (h : s.nent.toNat < 4096) :
    insertEntry s = { s with
      table := store s.table s.nent.toNat (newEntry s)
      nent := BitVec.ofNat 13 (s.nent.toNat + 1)
      full := decide (s.nent.toNat + 1 = 4096)
      flight := { Flight.rest with
        inserted := true
        grow := decide (s.nent.toNat + 1 < 4096) && decide (s.width.toNat < 12) &&
          (List.range 12).any fun k => s.nent.toNat + 1 == 2 ^ k } } := by
  have count : (s.nent + 1#13).toNat = s.nent.toNat + 1 := insertEntry_nent_toNat h.le
  have cap : (s.nent + 1#13).toNat ≤ 4096 := count ▸ h
  rw [insertEntry, fullAt_eq_decide, growAt_eq_any_range s.width cap, count, BitVec.ofNat_add, BitVec.ofNat_toNat,
    BitVec.setWidth_eq]

/-! ## The three cases of the phase -/

theorem insertPhase_of_no_room {s : State} (prev : s.hasPrev = true) (notFull : s.full = false)
    (h : s.params.tableDepth ≤ s.nent.toNat) :
    insertPhase s = .halt (.next (faulted .outOfMemory s.nent.toNat s)) := by
  rw [insertPhase, if_pos ⟨prev, notFull⟩, if_pos h]
  rfl

theorem insertPhase_of_room {s : State} (prev : s.hasPrev = true) (notFull : s.full = false)
    (h : s.nent.toNat < s.params.tableDepth) : insertPhase s = .go () (insertEntry s) := by
  rw [insertPhase, if_pos ⟨prev, notFull⟩, if_neg (Nat.not_le.2 h)]

theorem insertPhase_of_nothing {s : State} (h : s.hasPrev = false ∨ s.full = true) :
    insertPhase s = .go () { s with flight := Flight.rest } := by
  have closed : ¬(s.hasPrev = true ∧ s.full = false) := by
    rintro ⟨prev, notFull⟩
    simp [prev, notFull] at h
  rw [insertPhase, if_neg closed]

/-- Settles O27: the phase's three cases, an insertion being `insertEntry` below the cap. -/
theorem insertionPhase : Obligations.InsertionPhase := by
  intro s
  refine ⟨insertPhase_of_no_room, ?insertion, insertPhase_of_nothing⟩
  case insertion =>
    intro prev notFull room below
    rw [insertPhase_of_room prev notFull room, insertEntry_of_below_cap below]
    rfl

end Machine
end Sys2Proof
end

section
/-!
The data codes (R123, R124, R127 to R129): which shared operation a row's meaning is, the walk of a chain in terms of
its run, the state the tail of the step leaves, and O21, O20, O26.
-/
namespace Sys2Proof.Machine

/-! ## The rows of a data code -/

theorem literalCode_setWidth {k : Nat} {c : Code} (h : c.toNat < 2 ^ k) : literalCode (c.setWidth k) = c := by
  apply BitVec.eq_of_toNat_eq
  rw [literalCode, BitVec.toNat_setWidth, BitVec.toNat_setWidth, Nat.mod_eq_of_lt h, Nat.mod_eq_of_lt c.isLt]

theorem exec_literalRow {k : Nat} {c : Code} (s : State) (h : c.toNat < 2 ^ k) :
    exec (literalRow k c) s = dataCode c s := by
  have back := congrArg (dataCode · s) (literalCode_setWidth h)
  unfold literalRow
  split
  case h_8 => rfl
  all_goals exact back

/-- Whatever its row, a data code has the one meaning of R120. -/
theorem exec_of_isDataRow {i : Instr} {c : Code} (s : State) (h : isDataRow i c) : exec i s = dataCode c s := by
  rcases h with rfl | rfl | rfl | ⟨k, -, -, hc, rfl⟩
  case inr.inr.inr => exact exec_literalRow s hc
  all_goals rfl

/-! ## The run of an entry -/

/-- What it takes to have a run (R101): an entry of the run's length, whose suffix stands last, behind nothing or
behind the run of the entry it is linked to. -/
theorem runOf_succ {t : List (Nat × Entry)} {f i : Nat} {r : List Byte} (h : runOf t (f + 1) i = some r) :
    ∃ e q, lookup t i = some e ∧ r = q ++ [e.suffix] ∧ e.len.toNat = q.length + 1 ∧
      (e.pfx = none ∧ q = [] ∨ ∃ j, e.pfx = some j ∧ runOf t f j.toNat = some q) := by
  unfold runOf at h
  split at h
  case h_1 => cases h
  case h_2 e he =>
    split at h
    case h_1 => cases h
    case h_2 q hq =>
      split at h
      case isFalse => cases h
      case isTrue len =>
        refine ⟨e, q, he, (Option.some.inj h).symm, len, ?_⟩
        cases link : e.pfx with
        | none => exact .inl ⟨rfl, by simpa [link, eq_comm] using hq⟩
        | some j => exact .inr ⟨j, rfl, by simpa [link] using hq⟩

theorem runOf_ne_nil {t : List (Nat × Entry)} {f i : Nat} {r : List Byte} (h : runOf t f i = some r) : r ≠ [] := by
  cases f with
  | zero => cases h
  | succ f =>
    obtain ⟨e, q, -, rfl, -⟩ := runOf_succ h
    exact List.append_ne_nil_of_right_ne_nil q (List.cons_ne_nil _ _)

theorem lookup_of_runOf {t : List (Nat × Entry)} {f i : Nat} {r : List Byte} (h : runOf t f i = some r) :
    ∃ e, lookup t i = some e ∧ e.len.toNat = r.length := by
  cases f with
  | zero => cases h
  | succ f =>
    obtain ⟨e, q, he, rfl, len, -⟩ := runOf_succ h
    exact ⟨e, he, by simp [len]⟩

/-- A root entry (R100) has its own value as its run. -/
theorem runOf_root {t : List (Nat × Entry)} {f i : Nat} {v : Byte}
    (h : lookup t i = some { len := 1#13, pfx := none, suffix := v }) : runOf t (f + 1) i = some [v] := by
  simp [runOf, h]

/-! ## The pixels of a run -/

theorem runWrites_append (s : State) (p : Nat) (a b : List Byte) :
    runWrites s p (a ++ b) = runWrites s p a ++ runWrites s (p + a.length) b := by
  induction a generalizing p with
  | nil => rfl
  | cons v a ih => simp [runWrites, ih, Nat.add_assoc, Nat.add_comm 1]

/-- A run's writes depend on the geometry alone. -/
theorem runWrites_congr {s t : State} (h : ∀ p, fbAddr t p = fbAddr s p) (p : Nat) (r : List Byte) :
    runWrites t p r = runWrites s p r := by
  induction r generalizing p with
  | nil => rfl
  | cons v r ih => rw [runWrites, runWrites, h, ih]

@[simp] theorem runWrites_putByte (a : Nat) (v : Byte) (s : State) (p : Nat) (r : List Byte) :
    runWrites (putByte a v s) p r = runWrites s p r :=
  runWrites_congr (s := s) (t := putByte a v s) (fun _ => rfl) p r

theorem pixelsInside_iff {s : State} {p n : Nat} :
    pixelsInside s p n = true ↔ ∀ k, k < n → fbAddr s (p + k) < frameBytes s := by
  simp [pixelsInside]

/-! ## The walk of a chain -/

section
variable {f p : Nat} {e : Entry} {s : State} (hw : s.w ≠ 0#16) (len : e.len ≠ 0#13)
  (last : s.off.toNat + e.len.toNat - 1 = p)
include hw len last

/-- The walk ends at a root entry, its pixel written (R127). -/
theorem walk_of_root (inside : fbAddr s p < frameBytes s) (root : e.pfx = none) :
    walk (f + 1) e s = .go e.suffix (putByte (fbAddr s p) e.suffix s) := by
  have wrote : writePixel p e.suffix s = .go () (putByte (fbAddr s p) e.suffix s) :=
    writePixel_go.2 ⟨hw, inside, rfl⟩
  simp only [walk, if_neg len, last, wrote, andThen_of_go, root]

/-- The walk of a linked entry writes its pixel and goes on with the entry it is linked to (R127). -/
theorem walk_of_link {j : Code} {e' : Entry} (inside : fbAddr s p < frameBytes s) (link : e.pfx = some j)
    (hj : lookup s.table j.toNat = some e') :
    walk (f + 1) e s = walk f e' (putByte (fbAddr s p) e.suffix s) := by
  have wrote : writePixel p e.suffix s = .go () (putByte (fbAddr s p) e.suffix s) :=
    writePixel_go.2 ⟨hw, inside, rfl⟩
  have found : readEntry j.toNat (putByte (fbAddr s p) e.suffix s) = .go e' (putByte (fbAddr s p) e.suffix s) :=
    readEntry_go.2 ⟨hj, rfl⟩
  simp only [walk, if_neg len, last, wrote, andThen_of_go, link, found]

/-- At a pixel outside the buffer the walk ends in `FbRange`, nothing written (R127, R156). -/
theorem walk_of_outside (outside : frameBytes s ≤ fbAddr s p) :
    walk (f + 1) e s = .halt (.next (faulted .fbRange p s)) := by
  rw [walk, if_neg len, last, writePixel_halt.2 (.inr ⟨hw, outside, rfl⟩), andThen_of_halt]

end

/-- The walk of a chain whose pixels are all inside the buffer paints its run, from the last pixel down (R127). -/
theorem walk_of_runOf {f i : Nat} {e : Entry} {s : State} {r : List Byte} (hw : s.w ≠ 0#16)
    (he : lookup s.table i = some e) (hr : runOf s.table f i = some r)
    (inside : ∀ k, k < r.length → fbAddr s (s.off.toNat + k) < frameBytes s) :
    walk f e s = .go (r.headD 0#8) (painted (runWrites s s.off.toNat r) s) := by
  induction f generalizing i e s r with
  | zero => cases hr
  | succ f ih =>
    obtain ⟨_, q, he', rfl, length, chain⟩ := runOf_succ hr
    obtain rfl := Option.some.inj (he.symm.trans he')
    have nonempty : e.len ≠ 0#13 := by
      intro h
      simp [h] at length
    have last : s.off.toNat + e.len.toNat - 1 = s.off.toNat + q.length := by omega
    have lastInside := inside q.length (by simp)
    have cut : painted (runWrites s s.off.toNat (q ++ [e.suffix])) s =
        painted (runWrites s s.off.toNat q) (putByte (fbAddr s (s.off.toNat + q.length)) e.suffix s) := by
      rw [runWrites_append, painted_putByte]
      rfl
    rw [cut]
    rcases chain with ⟨root, rfl⟩ | ⟨j, link, hq⟩
    · exact walk_of_root hw nonempty last lastInside root
    · obtain ⟨e', hj, -⟩ := lookup_of_runOf hq
      have first : (q ++ [e.suffix]).headD 0#8 = q.headD 0#8 := by
        cases q with
        | nil => exact absurd rfl (runOf_ne_nil hq)
        | cons v q => rfl
      rw [walk_of_link hw nonempty last lastInside link hj, first, ← runWrites_putByte]
      exact ih hw hj hq fun k hk => inside k (by rw [List.length_append]; omega)

/-! ## The tail of the step -/

theorem growWidth_eq (s : State) : growWidth s = { s with width := grownWidth s } := by
  unfold growWidth grownWidth
  split <;> rfl

/-- The width of a code is no part of the geometry (R45). -/
@[simp] theorem fbAddr_growWidth (s : State) (p : Nat) : fbAddr (growWidth s) p = fbAddr s p := by
  rw [growWidth_eq]
  rfl

@[simp] theorem frameBytes_growWidth (s : State) : frameBytes (growWidth s) = frameBytes s := by
  rw [growWidth_eq]
  rfl

@[simp] theorem runWrites_growWidth (s : State) (p : Nat) (r : List Byte) :
    runWrites (growWidth s) p r = runWrites s p r := runWrites_congr (fbAddr_growWidth s) p r

theorem repair_eq (first : Byte) (s : State) : repair first s = { s with table := repairedTable s first } := by
  unfold repair repairs repairedTable
  split <;> rfl

/-- The state a data code leaves behind its pixel writes (R120, R128, R129). -/
theorem dataDone_eq (c : Code) (len : BitVec 13) (first : Byte) (ws : List Host.Cell) (s : State) :
    dataDone c len first (painted ws (growWidth s)) = { s with
      width := grownWidth s, fb := applyWrites ws s.fb, ports := wroteRecord ws ++ s.ports,
      off := s.off + len.setWidth 32, table := repairedTable s first, hasPrev := true, prevCode := c, prevLen := len,
      prevFirst := first, flight := Flight.rest } := by
  rw [dataDone, repair_eq, growWidth_eq]
  rfl

/-- A data code whose entry is in the table walks its chain (R120, R127). -/
theorem dataCode_of_lookup {c : Code} {s : State} {e : Entry} (he : lookup s.table c.toNat = some e) :
    dataCode c s =
      outcomeOf (andThen (walk walkFuel e (growWidth s)) fun first t => .go () (dataDone c e.len first t)) := by
  have found : readEntry c.toNat (growWidth s) = .go e (growWidth s) := readEntry_go.2 ⟨by simpa using he, rfl⟩
  rw [dataCode, emit, found, andThen_of_go]
  cases walk walkFuel e (growWidth s) <;> rfl

/-- A data code whose run is inside the buffer (R120, R127). -/
theorem dataCode_of_runOf {c : Code} {s : State} {r : List Byte} (hr : runOf s.table walkFuel c.toNat = some r)
    (hw : s.w ≠ 0#16) (inside : pixelsInside s s.off.toNat r.length = true) :
    dataCode c s = .next (dataDone c (BitVec.ofNat 13 r.length) (r.headD 0#8)
      (painted (runWrites s s.off.toNat r) (growWidth s))) := by
  obtain ⟨e, he, len⟩ := lookup_of_runOf hr
  have walked := walk_of_runOf (s := growWidth s) (by simpa using hw) (by simpa using he) (by simpa using hr)
    (by simpa using pixelsInside_iff.1 inside)
  have length : e.len = BitVec.ofNat 13 r.length := by rw [← len, BitVec.ofNat_toNat, BitVec.setWidth_eq]
  rw [dataCode_of_lookup he, walked, runWrites_growWidth, growWidth_off, length]
  rfl

/-- Settles O21: the walk paints the run, and the run's length is what the entry tells. -/
theorem dataCodeEmitsRun : Obligations.DataCodeEmitsRun := by
  intro i c s r row hr hw inside
  obtain ⟨e, -, len⟩ := lookup_of_runOf hr
  have fits : r.length < 2 ^ 13 := len ▸ e.len.isLt
  have widened : (BitVec.ofNat 13 r.length).setWidth 32 = BitVec.ofNat 32 r.length := by
    apply BitVec.eq_of_toNat_eq
    simp only [BitVec.toNat_setWidth, BitVec.toNat_ofNat, Nat.mod_eq_of_lt fits]
  rw [exec_of_isDataRow s row, dataCode_of_runOf hr hw inside, dataDone_eq, widened]
  rfl

/-- Settles O20: inside the buffer it is the run of a root entry, outside the walk ends at its first pixel. -/
theorem literalEmitsPixel : Obligations.LiteralEmitsPixel := by
  intro i c s row root hw
  have data : isDataRow i c := row.imp id fun h => .inr (.inr h)
  constructor
  · intro inside
    exact dataCodeEmitsRun i c s _ data (runOf_root root) hw (by simpa [pixelsInside] using inside)
  · intro outside
    have first : (growWidth s).off.toNat + (1#13).toNat - 1 = (growWidth s).off.toNat := by simp
    rw [exec_of_isDataRow s data, dataCode_of_lookup root, walkFuel,
      walk_of_outside (by simpa using hw) (by simp) first (by simpa using outside), andThen_of_halt, outcomeOf_of_halt,
      faulted_with_off, growWidth_eq]

/-! ## The repaired table -/

/-- The repair writes one suffix, under one condition (R128). -/
theorem lookup_repairedTable (s : State) (v : Byte) (a : Nat) :
    lookup (repairedTable s v) a =
      if a = s.nent.toNat - 1 ∧ s.flight.inserted = true ∧ (s.params.repairOnFill = true ∨ s.full = false) then
        (lookup s.table a).map fun e => { e with suffix := v }
      else lookup s.table a := by
  unfold repairedTable
  split
  case isTrue repairs =>
    have repairs : s.flight.inserted = true ∧ (s.params.repairOnFill = true ∨ s.full = false) := by simpa using repairs
    rw [lookup_storeSuffix]
    simp only [repairs, and_true]
    split
    case isTrue newest => rw [newest]
    case isFalse => rfl
  case isFalse keeps =>
    have keeps : ¬(s.flight.inserted = true ∧ (s.params.repairOnFill = true ∨ s.full = false)) := by simpa using keeps
    rw [if_neg fun h => keeps h.2]

/-- Settles O26: a data code that completes leaves the repaired table (R128). -/
theorem repairWritesSuffix : Obligations.RepairWritesSuffix := by
  intro i c s t a row busy runs still
  rw [exec_of_isDataRow s row] at runs
  rcases dataCode_cases c s with ⟨e, v, ws, -, h⟩ | ⟨p, ws, h⟩ | ⟨_, h⟩ | ⟨_, h⟩ <;> rw [h] at runs <;> cases runs
  case inl =>
    rw [dataDone_eq]
    exact lookup_repairedTable s v a
  case inr => cases still

end Sys2Proof.Machine
end

section
/-!
The stop code (R85, R122): the rounds of `Drain` in front of each byte, where the image data end and what `TRAIL` tells
of it, and O18.
-/
namespace Sys2Proof.Machine

/-! ## The rows of the stop code -/

theorem exec_stopRow (k : Nat) (s : State) : exec (stopRow k) s = stopCode s := by
  unfold stopRow
  split <;> rfl

theorem exec_of_isStopRow {i : Instr} (s : State) (h : isStopRow i) : exec i s = stopCode s := by
  rcases h with rfl | ⟨k, -, -, rfl⟩
  · rfl
  · exact exec_stopRow k s

/-! ## Where the image data end -/

/-- Inside a sub-block the terminator is looked for behind what is left of it (R61). -/
theorem afterTerminator_of_le {n : Nat} {l : List Byte} (h : n ≤ l.length) :
    afterTerminator n l = afterTerminator 0 (l.drop n) := by
  induction n generalizing l with
  | zero => rfl
  | succ n ih =>
    cases l with
    | nil => exact absurd h (Nat.not_succ_le_zero n)
    | cons d r => exact ih (Nat.le_of_succ_le_succ h)

/-- A source that ends inside a sub-block has no terminator (R61). -/
theorem afterTerminator_of_lt {n : Nat} {l : List Byte} (h : l.length < n) : afterTerminator n l = none := by
  induction n generalizing l with
  | zero => exact absurd h (Nat.not_lt_zero _)
  | succ n ih =>
    cases l with
    | nil => rfl
    | cons d r => exact ih (Nat.lt_of_succ_lt_succ h)

/-- A length byte is followed by its sub-block (R61). -/
theorem afterTerminator_of_len {n : Byte} (r : List Byte) (h : n ≠ 0#8) :
    afterTerminator 0 (n :: r) = afterTerminator n.toNat r := if_neg h

/-- A data byte leaves the terminator where it is, the sub-block one byte shorter (R61). -/
theorem afterTerminator_of_data {m : BitVec 8} (d : Byte) (r : List Byte) (h : m ≠ 0#8) :
    afterTerminator m.toNat (d :: r) = afterTerminator (m - 1#8).toNat r := by
  have count : m.toNat = (m - 1#8).toNat + 1 := by bv_omega
  rw [count]
  rfl

/-! ## The byte tokens while bytes are discarded -/

section
variable {f : Nat} {s : State} {b : Byte} {r : List Byte} (draining : s.flight.draining = true)
include draining

theorem lenToken_of_drain (n : Byte) : lenToken n s = skipBytes n.toNat { s with trail := true } := by
  simp [lenToken, draining]

theorem dataToken_of_drain (d : Byte) :
    dataToken d s = .go () { s with subrem := s.subrem - 1#8, trail := true } := by
  simp [dataToken, draining]

theorem termToken_of_drain :
    termToken s = .go () { s with shift := 0#3, flight := { s.flight with draining := false } } := by
  simp [termToken, draining]

/-! ## The rounds of `Drain` -/

/-- Inside a sub-block a round drops one byte (R85). -/
theorem drainRounds_of_data (opened : s.subrem ≠ 0#8) (hb : s.bs = b :: r) :
    drainRounds (f + 1) s = drainRounds f { consume b r s with subrem := s.subrem - 1#8, trail := true } := by
  have token : dataToken b (consume b r s) = _ := dataToken_of_drain (s := consume b r s) draining b
  rw [drainRounds, andThen_nextByte_of_cons hb, consume_subrem, if_neg opened, token, andThen_of_go]
  exact if_pos draining

/-- The terminator is the last round (R85). -/
theorem drainRounds_of_term (closed : s.subrem = 0#8) (hb : s.bs = 0#8 :: r) :
    drainRounds (f + 1) s =
      .go () { consume 0#8 r s with shift := 0#3, flight := { s.flight with draining := false } } := by
  have token : lengthToken 0#8 (consume 0#8 r s) = _ :=
    (if_pos rfl).trans (termToken_of_drain (s := consume 0#8 r s) draining)
  rw [drainRounds, andThen_nextByte_of_cons hb, consume_subrem, if_pos closed, token]
  rfl

/-- At a length byte a round drops the sub-block (R85). -/
theorem drainRounds_of_length (closed : s.subrem = 0#8) (hn : b ≠ 0#8) (hb : s.bs = b :: r) :
    drainRounds (f + 1) s =
      andThen (skipBytes b.toNat { consume b r s with trail := true }) fun _ t =>
        if t.flight.draining then drainRounds f t else .go () t := by
  have token : lengthToken b (consume b r s) = _ :=
    (if_neg hn).trans (lenToken_of_drain (s := consume b r s) draining b)
  rw [drainRounds, andThen_nextByte_of_cons hb, consume_subrem, if_pos closed, token]

/-- A sub-block that the source has whole is dropped in one round (R85). -/
theorem drainRounds_of_whole (closed : s.subrem = 0#8) (hn : b ≠ 0#8) (hb : s.bs = b :: r)
    (whole : b.toNat ≤ r.length) :
    drainRounds (f + 1) s = drainRounds f { s with
      trail := true, bs := r.drop b.toNat, ports := byteRecord (r.take b.toNat) ++ .consumed b :: s.ports } := by
  rw [drainRounds_of_length draining closed hn hb, skipBytes_eq, consume_bs, if_pos whole, andThen_of_go]
  exact if_pos draining

/-- A sub-block that the source cuts short is the end of the source (R85, R155). -/
theorem drainRounds_of_cut (closed : s.subrem = 0#8) (hn : b ≠ 0#8) (hb : s.bs = b :: r)
    (cut : r.length < b.toNat) :
    drainRounds (f + 1) s = .halt (.next (faulted .unexpectedEof s.off.toNat { s with
      trail := true, bs := [], ports := byteRecord r ++ .consumed b :: s.ports })) := by
  rw [drainRounds_of_length draining closed hn hb, skipBytes_eq, consume_bs, if_neg (Nat.not_le.2 cut),
    andThen_of_halt]
  rfl

end

/-! ## Where `Drain` ends -/

/-- The terminator is the next byte. -/
def atTerminator (s : State) : Bool := decide (s.subrem = 0#8) && decide (s.bs.head? = some 0#8)

/-- Where `Drain` ends (R85): behind the terminator, or in a fault where the source has none. `TRAIL` tells whether
another byte was discarded; a fault leaves `SHIFT` alone. -/
def drainsTo (s : State) (m : Flow Unit) : Prop :=
  match m with
  | .go _ t => afterTerminator s.subrem.toNat s.bs = some t.bs ∧ t.trail = (s.trail || !atTerminator s)
  | .halt (.next t) =>
    afterTerminator s.subrem.toNat s.bs = none ∧ t.trail = (s.trail || !s.bs.isEmpty) ∧ t.shift = s.shift
  | .halt _ => False

/-- A round that discards bytes sets `TRAIL` and leaves the place of the terminator to the rounds to come. -/
theorem drainsTo_of_discard {s u : State} {m : Flow Unit} (h : drainsTo u m) (bytes : s.bs ≠ [])
    (other : atTerminator s = false) (trail : u.trail = true) (shift : u.shift = s.shift)
    (same : afterTerminator s.subrem.toNat s.bs = afterTerminator u.subrem.toNat u.bs) : drainsTo s m := by
  unfold drainsTo at h ⊢
  split at h
  · obtain ⟨stop, tr⟩ := h
    exact ⟨same.trans stop, by simp [tr, trail, other]⟩
  · obtain ⟨stop, tr, sh⟩ := h
    exact ⟨same.trans stop, by simp [tr, trail, bytes], sh.trans shift⟩
  · exact h

/-- As many rounds as the source has bytes are enough. -/
theorem drainsTo_drainRounds {f : Nat} {s : State} (draining : s.flight.draining = true) (fuel : s.bs.length ≤ f) :
    drainsTo s (drainRounds f s) := by
  induction f generalizing s with
  | zero =>
    have empty : s.bs = [] := List.length_eq_zero_iff.1 (Nat.le_zero.1 fuel)
    exact ⟨by simp [empty, afterTerminator], by simp [empty], rfl⟩
  | succ f ih =>
    rcases hb : s.bs with _ | ⟨b, r⟩
    case nil =>
      rw [drainRounds, andThen_nextByte_of_empty hb]
      exact ⟨by simp [hb, afterTerminator], by simp [hb], rfl⟩
    case cons =>
      have bytes : s.bs ≠ [] := by simp [hb]
      have short : r.length ≤ f := by simpa [hb] using fuel
      by_cases closed : s.subrem = 0#8
      case neg =>
        rw [drainRounds_of_data draining closed hb]
        refine drainsTo_of_discard (ih draining short) bytes (by simp [atTerminator, closed]) rfl rfl ?_
        rw [hb]
        exact afterTerminator_of_data b r closed
      case pos =>
        by_cases term : b = 0#8
        case pos =>
          subst term
          rw [drainRounds_of_term draining closed hb]
          exact ⟨by simp [hb, closed, afterTerminator], by simp [hb, closed, atTerminator]⟩
        case neg =>
          have behind : afterTerminator s.subrem.toNat s.bs = afterTerminator b.toNat r := by
            rw [hb, closed]
            exact afterTerminator_of_len r term
          by_cases whole : b.toNat ≤ r.length
          case pos =>
            rw [drainRounds_of_whole draining closed term hb whole]
            have fewer : (r.drop b.toNat).length ≤ f := (List.drop_suffix _ _).length_le.trans short
            refine drainsTo_of_discard (ih draining fewer) bytes (by simp [atTerminator, hb, term]) rfl rfl ?_
            rw [behind, afterTerminator_of_le whole, closed]
            rfl
          case neg =>
            have cut := Nat.not_le.1 whole
            rw [drainRounds_of_cut draining closed term hb cut]
            exact ⟨behind.trans (afterTerminator_of_lt cut), by simp [bytes], rfl⟩

theorem drainsTo_drain (s : State) : drainsTo s (drain s) :=
  drainsTo_drainRounds (s := { s with flight := { s.flight with draining := true } }) rfl le_rfl

/-! ## The end of the run -/

/-- The bytes consumed are those the source has lost. -/
theorem ports_of_tookBytes {s t : State} (h : tookBytes s t) :
    t.ports = byteRecord (s.bs.take (s.bs.length - t.bs.length)) ++ s.ports := by
  obtain ⟨bytes, hb, hp⟩ := h
  rw [hp, hb]
  simp

/-- With a terminator to come a stop code ends the run behind it (R122). -/
theorem stopCode_of_terminator {s : State} {r : List Byte} (h : afterTerminator s.subrem.toNat s.bs = some r) :
    stopCode s = .next { s with
      state := .done, trail := s.trail || !atTerminator s, subrem := 0#8, shift := 0#3, bs := r,
      ports := byteRecord (s.bs.take (s.bs.length - r.length)) ++ s.ports, table := [], flight := Flight.rest } := by
  have ends := drainsTo_drain s
  rcases drain_cases s with ⟨t, ht, frame, took, -⟩ | ⟨t, ht, -, -⟩ <;> rw [ht] at ends
  case inl =>
    obtain ⟨stop, trail⟩ := ends
    obtain rfl := Option.some.inj (h.symm.trans stop)
    rw [stopCode, ht, ← trail, ← ports_of_tookBytes took]
    exact congrArg (fun u => outcomeOf (.go () (finished u))) frame
  case inr => exact absurd (h.symm.trans ends.1) nofun

/-- Without a terminator a stop code ends in `UnexpectedEof`, the source exhausted (R85, R155). -/
theorem stopCode_of_no_terminator {s : State} (h : afterTerminator s.subrem.toNat s.bs = none) :
    ∃ t, stopCode s = .next t ∧ t = { s with
      state := .fault, cause := some .unexpectedEof, info := s.off, trail := s.trail || !s.bs.isEmpty,
      subrem := t.subrem, bs := [], ports := byteRecord s.bs ++ s.ports, table := [], flight := Flight.rest } := by
  have ends := drainsTo_drain s
  rcases drain_cases s with ⟨t, ht, -, -, -⟩ | ⟨t, ht, ⟨frame, took⟩, empty⟩ <;> rw [ht] at ends
  case inl => exact absurd (h.symm.trans ends.1) nofun
  case inr =>
    have trail : t.trail = (s.trail || !s.bs.isEmpty) := ends.2.1
    have shift : t.shift = s.shift := ends.2.2
    have ports := ports_of_tookBytes took
    rw [empty, List.length_nil, Nat.sub_zero, List.take_length] at ports
    rw [trail, shift, empty, ports] at frame
    refine ⟨faulted .unexpectedEof s.off.toNat t, by rw [stopCode, ht]; rfl, ?_⟩
    exact (congrArg (faulted .unexpectedEof s.off.toNat) frame).trans (faulted_with_off .unexpectedEof _)

/-- Settles O18: `Drain` ends where the image data end (R85), and the run with it (R122). -/
theorem stopCodeEndsRun : Obligations.StopCodeEndsRun := by
  intro i s row
  rw [exec_of_isStopRow s row]
  exact ⟨fun _ => stopCode_of_terminator, stopCode_of_no_terminator⟩

end Sys2Proof.Machine
end

section
/-!
The host's word writes: the commands of R141 and R142, the writes without effect of R143, and O34, O35, O36.
-/
namespace Sys2Proof.Machine

/-! ## The meaning of a command -/

theorem unlessBusy_of_busy (f : State → State) {s : State} (busy : s.state = .busy) : unlessBusy f s = .next s :=
  congrArg Host.Outcome.next (if_pos busy)

theorem unlessBusy_of_not_busy (f : State → State) {s : State} (rest : s.state ≠ .busy) :
    unlessBusy f s = .next (f s) :=
  congrArg Host.Outcome.next (if_neg rest)

theorem exec_setOrigin (x y : BitVec 16) (s : State) :
    exec (.setOrigin x y) s = unlessBusy (fun s => { s with x := x, y := y }) s := rfl

theorem exec_setSubw (w : BitVec 16) (s : State) : exec (.setSubw w) s = unlessBusy (fun s => { s with w := w }) s :=
  rfl

theorem exec_setCanvas (cw ch : BitVec 16) (s : State) :
    exec (.setCanvas cw ch) s = unlessBusy (fun s => { s with cw := cw, ch := ch }) s := rfl

theorem exec_start (s : State) : exec .start s = unlessBusy started s := rfl

/-! ## What a word write is -/

theorem decodeHostWrite_of_start {v : Word} (bit : v.getLsbD 0 = true) : decodeHostWrite 0x00 v = .ok .start :=
  if_pos bit

theorem decodeHostWrite_of_no_start {v : Word} (bit : v.getLsbD 0 = false) :
    decodeHostWrite 0x00 v = .error .ignoredWrite :=
  if_neg (ne_true_of_eq_false bit)

/-- A write to `STATUS`, `OFFSET`, `INFO` or `LZWSTAT` is no command (R143). -/
theorem decodeHostWrite_of_readOnly {off : Nat} (v : Word) (h : off ∈ [0x04, 0x14, 0x18, 0x1C]) :
    decodeHostWrite off v = .error .ignoredWrite := by
  simp only [List.mem_cons, List.not_mem_nil, or_false] at h
  rcases h with rfl | rfl | rfl | rfl <;> rfl

/-- A write to `CTRL`, `ORIGIN`, `SUBW` or `CANVAS` is a command guarded by `BUSY`, or no command (R141 to R143). -/
theorem decodeHostWrite_of_writable {off : Nat} (v : Word) (h : off ∈ [0x00, 0x08, 0x0C, 0x10]) :
    (∃ i f, decodeHostWrite off v = .ok i ∧ ∀ s, exec i s = unlessBusy f s) ∨
      decodeHostWrite off v = .error .ignoredWrite := by
  simp only [List.mem_cons, List.not_mem_nil, or_false] at h
  rcases h with rfl | rfl | rfl | rfl
  · cases bit : v.getLsbD 0
    · exact .inr (decodeHostWrite_of_no_start bit)
    · exact .inl ⟨_, _, decodeHostWrite_of_start bit, exec_start⟩
  · exact .inl ⟨_, _, rfl, exec_setOrigin _ _⟩
  · exact .inl ⟨_, _, rfl, exec_setSubw _⟩
  · exact .inl ⟨_, _, rfl, exec_setCanvas _ _⟩

/-! ## The step of a word write -/

section
variable {s : State} {off : Nat} {v : Word} {r : List EnvEvent} (turn : s.env = .write 32 off v :: r)
include turn

/-- A word write that is a command runs it (R73). -/
theorem step_of_command {i : Instr} (command : decodeHostWrite off v = .ok i) :
    step s = exec i { s with env := r } := by
  rw [step_of_event turn]
  simp only [fetchEvent, fetchWrite, if_true, command, runFetched_run]

/-- A word write that is no command changes nothing (R143). -/
theorem step_of_ignoredWrite (ignored : decodeHostWrite off v = .error .ignoredWrite) :
    step s = .next { s with env := r } := by
  rw [step_of_event turn]
  simp only [fetchEvent, fetchWrite, if_true, ignored, runFetched_ended]

/-- While `BUSY` a write to `CTRL`, `ORIGIN`, `SUBW` or `CANVAS` changes nothing (R143). -/
theorem step_of_write_while_busy (busy : s.state = .busy) (writable : off ∈ [0x00, 0x08, 0x0C, 0x10]) :
    step s = .next { s with env := r } := by
  rcases decodeHostWrite_of_writable v writable with ⟨i, f, command, meaning⟩ | ignored
  · rw [step_of_command turn command, meaning]
    exact unlessBusy_of_busy f busy
  · exact step_of_ignoredWrite turn ignored

end

/-! ## The obligations -/

/-- Settles O34: each geometry command is its registers' update guarded by `BUSY`, and its word write decodes to it. -/
theorem geometryWrites : Obligations.GeometryWrites := by
  intro s
  refine ⟨?origin, ?subw, ?canvas, ?originWord, ?subwWord, ?canvasWord⟩
  case origin => exact fun x y => exec_setOrigin x y s
  case subw => exact fun w => exec_setSubw w s
  case canvas => exact fun cw ch => exec_setCanvas cw ch s
  case originWord | subwWord | canvasWord => exact fun v r turn => step_of_command turn rfl

/-- Settles O35: `START` is `started` guarded by `BUSY`, and a `CTRL` word with bit 0 set decodes to it. -/
theorem startBegins : Obligations.StartBegins := by
  intro s
  refine ⟨?rest, ?busy, ?word⟩
  case rest => exact fun rest => (exec_start s).trans (unlessBusy_of_not_busy started rest)
  case busy => exact fun busy => (exec_start s).trans (unlessBusy_of_busy started busy)
  case word => exact fun v r turn bit => step_of_command turn (decodeHostWrite_of_start bit)

/-- Settles O36: the write is no command, or it is one that `BUSY` makes a no-op. -/
theorem ignoredWrites : Obligations.IgnoredWrites := by
  intro s off v r turn h
  rcases h with readOnly | ⟨rfl, bit⟩ | ⟨busy, writable⟩
  · exact step_of_ignoredWrite turn (decodeHostWrite_of_readOnly v readOnly)
  · exact step_of_ignoredWrite turn (decodeHostWrite_of_no_start bit)
  · exact step_of_write_while_busy turn busy writable

end Sys2Proof.Machine
end

section
/-!
The faults of the block: the raise itself (R150), the code without a meaning (R126, R158), the run that leaves the
frame buffer (R156), and O12, O19, O24.
-/
namespace Sys2Proof.Machine

/-! ## Raising a fault -/

/-- Settles O12: a raise ends the step in the state that `faulted` names. -/
theorem raiseTakesFault : Obligations.RaiseTakesFault := fun c info s => (raise_halt c info s _).2 rfl

/-! ## The meaning of `INV` -/

theorem exec_inv (c : Code) (s : State) : exec (.inv c) s = .next (faulted .invalidCode c.toNat (growWidth s)) := rfl

/-- Settles O19: the raise comes behind the pending growth, which is the width's update alone. -/
theorem invalidCodeFaults : Obligations.InvalidCodeFaults := by
  intro c s
  rw [exec_inv, faulted, BitVec.ofNat_toNat, growWidth_eq]

/-! ## A run that leaves the frame buffer -/

/-- The walk of a chain whose pixel `k` is the highest outside the buffer paints the pixels above it and raises
`FbRange` there (R127, R156). -/
theorem walk_of_runOf_outside {f i k : Nat} {e : Entry} {s : State} {r : List Byte} (hw : s.w ≠ 0#16)
    (he : lookup s.table i = some e) (hr : runOf s.table f i = some r) (hk : k < r.length)
    (outside : frameBytes s ≤ fbAddr s (s.off.toNat + k))
    (inside : ∀ j, k < j → j < r.length → fbAddr s (s.off.toNat + j) < frameBytes s) :
    walk f e s = .halt (.next (faulted .fbRange (s.off.toNat + k)
      (painted (runWrites s (s.off.toNat + k + 1) (r.drop (k + 1))) s))) := by
  induction f generalizing i e s r with
  | zero => cases hr
  | succ f ih =>
    obtain ⟨_, q, he', rfl, length, chain⟩ := runOf_succ hr
    obtain rfl := Option.some.inj (he.symm.trans he')
    rw [List.length_append, List.length_singleton] at hk inside
    have nonempty : e.len ≠ 0#13 := by
      intro h
      simp [h] at length
    have last : s.off.toNat + e.len.toNat - 1 = s.off.toNat + q.length := by omega
    rcases Nat.lt_succ_iff_lt_or_eq.1 hk with below | rfl
    case inr =>
      rw [walk_of_outside hw nonempty last outside, List.drop_of_length_le (by simp)]
      rfl
    case inl =>
      rcases chain with ⟨-, rfl⟩ | ⟨j, link, hq⟩
      case inl => cases below
      case inr =>
        obtain ⟨e', hj, -⟩ := lookup_of_runOf hq
        have cut : painted (runWrites s (s.off.toNat + k + 1) ((q ++ [e.suffix]).drop (k + 1))) s =
            painted (runWrites s (s.off.toNat + k + 1) (q.drop (k + 1)))
              (putByte (fbAddr s (s.off.toNat + q.length)) e.suffix s) := by
          have above : s.off.toNat + k + 1 + (q.drop (k + 1)).length = s.off.toNat + q.length := by
            rw [List.length_drop]
            omega
          rw [List.drop_append_of_le_length below, runWrites_append, above, painted_putByte]
          rfl
        rw [walk_of_link hw nonempty last (inside q.length below (Nat.lt_succ_self _)) link hj, cut,
          ← runWrites_putByte]
        exact ih hw hj hq below outside fun l above hl => inside l above (Nat.lt_succ_of_lt hl)

/-- Settles O24: the data code grows the width, walks the chain as far as the pixel outside, and does nothing behind
the walk. -/
theorem dataCodeOutOfRange : Obligations.DataCodeOutOfRange := by
  intro i c s r k row hr hw hk outside inside
  obtain ⟨e, he, -⟩ := lookup_of_runOf hr
  have walked := walk_of_runOf_outside (s := growWidth s) (by simpa using hw) (by simpa using he) (by simpa using hr) hk
    (by simpa using outside) (by simpa using inside)
  rw [exec_of_isDataRow s row, dataCode_of_lookup he, walked, runWrites_growWidth, growWidth_off, andThen_of_halt,
    outcomeOf_of_halt, growWidth_eq]
  rfl

end Sys2Proof.Machine
end

section
/-!
The ways out of `IDLE`, `DONE` and `FAULT` (R131, R162, R169): what each event does to `STATE` outside `BUSY`, and O48.
-/
namespace Sys2Proof.Machine

/-! ## What leaves `STATE` -/

theorem hostRead_state {bits off : Nat} {s t : State} (h : hostRead bits off s = .next t) : t.state = s.state := by
  unfold hostRead at h
  split at h <;> cases h
  rfl

theorem placeSource_state {bytes : List Byte} {s t : State} (h : placeSource bytes s = .next t) :
    t.state = s.state := by
  unfold placeSource at h
  split at h <;> cases h
  rfl

theorem placeFrameByte_state {a : Nat} {v : Byte} {s t : State} (h : placeFrameByte a v s = .next t) :
    t.state = s.state := by
  unfold placeFrameByte at h
  split at h
  case isTrue => cases h
  case isFalse =>
    split at h <;> cases h
    rfl

theorem unlessBusy_state {f : State → State} (keeps : ∀ s, (f s).state = s.state) {s t : State}
    (h : unlessBusy f s = .next t) : t.state = s.state := by
  unfold unlessBusy at h
  cases h
  split
  · rfl
  · exact keeps s

/-! ## The host's word write -/

/-- A word write that is a command is `START`, or a geometry command (R73). -/
theorem decodeHostWrite_ok {off : Nat} {v : Word} {i : Instr} (h : decodeHostWrite off v = .ok i) :
    off = 0x00 ∧ v.getLsbD 0 = true ∧ i = .start ∨
      ∃ f : State → State, (∀ s, exec i s = unlessBusy f s) ∧ ∀ s, (f s).state = s.state := by
  unfold decodeHostWrite at h
  split at h
  case h_1 =>
    split at h <;> cases h
    exact .inl ⟨rfl, ‹_›, rfl⟩
  case h_3 =>
    cases h
    exact .inr ⟨_, exec_setOrigin _ _, fun _ => rfl⟩
  case h_4 =>
    cases h
    exact .inr ⟨_, exec_setSubw _, fun _ => rfl⟩
  case h_5 =>
    cases h
    exact .inr ⟨_, exec_setCanvas _ _, fun _ => rfl⟩
  all_goals cases h

/-- Outside `BUSY` a host write keeps `STATE`, unless it is `START` (R141 to R143). -/
theorem fetchWrite_state_at_rest {bits off : Nat} {v : Word} {s t : State} (rest : s.state ≠ .busy)
    (h : runFetched (fetchWrite bits off v s) = .next t) :
    t.state = s.state ∨ bits = 32 ∧ off = 0x00 ∧ v.getLsbD 0 = true ∧ t.state = .busy := by
  unfold fetchWrite at h
  split at h
  case isFalse => cases h
  case isTrue word =>
    split at h
    case h_1 i command =>
      rw [runFetched_run] at h
      rcases decodeHostWrite_ok command with ⟨ctrl, bit, rfl⟩ | ⟨f, meaning, keeps⟩
      · rw [exec_start, unlessBusy_of_not_busy started rest] at h
        cases h
        exact .inr ⟨word, ctrl, bit, rfl⟩
      · exact .inl (unlessBusy_state keeps (meaning s ▸ h))
    case h_3 =>
      cases h
      exact .inl rfl
    all_goals cases h

/-! ## Any event -/

/-- Outside `BUSY` the block's turn changes nothing (R131; log 15). -/
theorem fetchBlock_at_rest {s : State} (rest : s.state ≠ .busy) : fetchBlock s = .ended (.next s) := if_neg rest

/-- Outside `BUSY` an event keeps `STATE`, unless it is `START` or hardware reset (R142, R162, R170). -/
theorem fetchEvent_state_at_rest {e : EnvEvent} {s t : State} (rest : s.state ≠ .busy)
    (h : runFetched (fetchEvent e s) = .next t) :
    t.state = s.state ∨ (∃ v, e = .write 32 0x00 v ∧ v.getLsbD 0 = true ∧ t.state = .busy) ∨
      e = .reset ∧ t.state = .idle := by
  cases e with
  | tick =>
    rw [fetchEvent, fetchBlock_at_rest rest] at h
    cases h
    exact .inl rfl
  | write bits off v =>
    rcases fetchWrite_state_at_rest rest h with keeps | ⟨rfl, rfl, bit, busy⟩
    · exact .inl keeps
    · exact .inr (.inl ⟨v, rfl, bit, busy⟩)
  | read bits off => exact .inl (hostRead_state h)
  | reset =>
    cases h
    exact .inr (.inr ⟨rfl, rfl⟩)
  | source bytes => exact .inl (placeSource_state h)
  | frame a v => exact .inl (placeFrameByte_state h)

/-- Settles O48: the script is empty, and the block's turn changes nothing; or the step is the event at its head. -/
theorem onlyStartOrResetLeavesRest : Obligations.OnlyStartOrResetLeavesRest := by
  intro s t rest h left
  cases script : s.env with
  | nil =>
    rw [step_of_no_event script, fetchBlock_at_rest rest] at h
    cases h
    exact absurd rfl left
  | cons e r =>
    rw [step_of_event script] at h
    rcases fetchEvent_state_at_rest (s := { s with env := r }) rest h with
      keeps | ⟨v, rfl, bit, busy⟩ | ⟨rfl, idle⟩
    · exact absurd keeps left
    · exact .inl ⟨v, r, rfl, bit, busy⟩
    · exact .inr ⟨r, rfl, idle⟩

end Sys2Proof.Machine
end

section
/-!
The decoder and the encoder (R62 to R69, R73): the six tests on a code one by one, what a word decodes to in a context
that holds it, and O1 to O5.
-/
namespace Sys2Proof

/-! ## The six tests on a code -/

theorem clearRow_of_generic {size : Nat} (h : size < 2 ∨ 8 < size) : clearRow size = .clr := by
  unfold clearRow
  split
  case h_8 => rfl
  all_goals omega

theorem stopRow_of_generic {size : Nat} (h : size < 2 ∨ 8 < size) : stopRow size = .stop := by
  unfold stopRow
  split
  case h_8 => rfl
  all_goals omega

theorem literalRow_of_generic {size : Nat} (c : Code) (h : size < 2 ∨ 8 < size) : literalRow size c = .lit c := by
  unfold literalRow
  split
  case h_8 => rfl
  all_goals omega

section
variable {size nent : Nat} {inserted : Bool} {c : Code}

theorem classify_of_clear (clear : c.toNat = 2 ^ size) : classify size nent inserted c = clearRow size := if_pos clear

theorem classify_of_stop (stop : c.toNat = 2 ^ size + 1) : classify size nent inserted c = stopRow size := by
  rw [classify, if_neg (by omega), if_pos stop]

theorem classify_of_inv (clear : c.toNat ≠ 2 ^ size) (stop : c.toNat ≠ 2 ^ size + 1) (above : nent ≤ c.toNat) :
    classify size nent inserted c = .inv c := by
  rw [classify, if_neg clear, if_neg stop, if_pos above]

theorem classify_of_literal (root : c.toNat < 2 ^ size) (below : c.toNat < nent) :
    classify size nent inserted c = literalRow size c := by
  rw [classify, if_neg (by omega), if_neg (by omega), if_neg (by omega), if_pos root]

theorem classify_of_kwk (entry : 2 ^ size + 2 ≤ c.toNat) (newest : c.toNat + 1 = nent) (ins : inserted = true) :
    classify size nent inserted c = .kwk c := by
  rw [classify, if_neg (by omega), if_neg (by omega), if_neg (by omega), if_neg (by omega), if_pos ⟨ins, newest⟩]

theorem classify_of_ref (entry : 2 ^ size + 2 ≤ c.toNat) (below : c.toNat < nent)
    (other : ¬(inserted = true ∧ c.toNat + 1 = nent)) : classify size nent inserted c = .ref c := by
  rw [classify, if_neg (by omega), if_neg (by omega), if_neg (by omega), if_neg (by omega), if_neg other]

end

/-- Settles O3: each class by the tests before its own. -/
theorem codeClasses : Obligations.CodeClasses := by
  intro size nent inserted c least
  refine ⟨classify_of_clear, classify_of_stop, ?inv, ?literal, classify_of_kwk, ?ref⟩
  case inv => exact fun above => classify_of_inv (by omega) (by omega) above
  case literal => exact fun root => classify_of_literal root (by omega)
  case ref => exact fun entry below other => classify_of_ref entry below fun h => other h.symm

/-! ## What a word of a code context decodes to -/

theorem decode_of_holds {ctx : Context} {w : Word} (held : ctx.holds w.toNat = true) :
    decode ctx w = .ok (classify ctx.size ctx.nent ctx.inserted (w.setWidth 12)) := by
  cases ctx with
  | code size nent inserted width => exact if_pos (of_decide_eq_true held)
  | byte use => cases held
  | hostWrite off => cases held

/-- A code fits the 12 bits of R67. -/
theorem toNat_setWidth_of_holds {ctx : Context} {w : Word} (held : ctx.holds w.toNat = true) :
    (w.setWidth 12).toNat = w.toNat := by
  cases ctx with
  | code size nent inserted width =>
    obtain ⟨narrow, fits⟩ := of_decide_eq_true held
    have : 2 ^ width ≤ 2 ^ 12 := Nat.pow_le_pow_right (by decide) narrow
    exact (BitVec.toNat_setWidth ..).trans (Nat.mod_eq_of_lt (by omega))
  | byte use => cases held
  | hostWrite off => cases held

section
variable {ctx : Context}

theorem decode_clearRow {k : Nat} {w : Word} (size : ctx.size = k) (value : w.toNat = 2 ^ k)
    (held : ctx.holds w.toNat = true) : decode ctx w = .ok (clearRow k) := by
  rw [decode_of_holds held, classify_of_clear (by rw [toNat_setWidth_of_holds held, value, size]), size]

theorem decode_stopRow {k : Nat} {w : Word} (size : ctx.size = k) (value : w.toNat = 2 ^ k + 1)
    (held : ctx.holds w.toNat = true) : decode ctx w = .ok (stopRow k) := by
  rw [decode_of_holds held, classify_of_stop (by rw [toNat_setWidth_of_holds held, value, size]), size]

/-- A code that stands in 32 bits is the code the decoder reads there. -/
theorem decode_code {n : Nat} {c : BitVec n} (narrow : n ≤ 12) (held : ctx.holds c.toNat = true) :
    decode ctx (c.setWidth 32) = .ok (classify ctx.size ctx.nent ctx.inserted (c.setWidth 12)) := by
  have value : (c.setWidth 32).toNat = c.toNat := BitVec.toNat_setWidth_of_le (by omega)
  rw [decode_of_holds (value ▸ held), BitVec.setWidth_setWidth_of_le _ (by decide)]

theorem decode_literalRow {k : Nat} {c : BitVec k} (narrow : k ≤ 12) (size : ctx.size = k)
    (held : ctx.holds c.toNat = true) (below : c.toNat < ctx.nent) :
    decode ctx (c.setWidth 32) = .ok (literalRow k (c.setWidth 12)) := by
  have value : (c.setWidth 12).toNat = c.toNat := BitVec.toNat_setWidth_of_le narrow
  have root : (c.setWidth 12).toNat < 2 ^ ctx.size := by rw [value, size]; exact c.isLt
  rw [decode_code narrow held, classify_of_literal root (value ▸ below), size]

/-- A literal row of a size takes its operand's own bits back from the 12-bit code (R69). -/
theorem setWidth_back {k : Nat} (c : BitVec k) (narrow : k ≤ 12) : (c.setWidth 12).setWidth k = c := by
  rw [BitVec.setWidth_setWidth_of_le _ narrow, BitVec.setWidth_eq]

end

/-! ## Decoding what was encoded -/

theorem decode_control_row {ctx : Context} {size v : Nat} {w : Word} {row : Instr}
    (decodes : ctx.size = size → ctx.holds w.toNat = true → decode ctx w = .ok row) (value : w.toNat = v)
    (fits : (decide (ctx.size = size) && ctx.holds v) = true) : decode ctx w = .ok row := by
  obtain ⟨hs, held⟩ := Bool.and_eq_true_iff.1 fits
  exact decodes (of_decide_eq_true hs) (value ▸ held)

theorem decode_literal_row {ctx : Context} {k : Nat} {c : BitVec k} (narrow : k ≤ 12)
    (fits : (decide (ctx.size = k) && ctx.holds c.toNat && decide (c.toNat < ctx.nent)) = true) :
    decode ctx (c.setWidth 32) = .ok (literalRow k (c.setWidth 12)) := by
  simp only [Bool.and_eq_true, decide_eq_true_eq] at fits
  obtain ⟨⟨size, held⟩, below⟩ := fits
  exact decode_literalRow narrow size held below

/-- A power of two that a code context holds stands in 32 bits. -/
theorem toNat_ofNat_of_holds {ctx : Context} {v : Nat} (held : ctx.holds v = true) : (BitVec.ofNat 32 v).toNat = v := by
  cases ctx with
  | code size nent inserted width =>
    obtain ⟨narrow, fits⟩ := of_decide_eq_true held
    have : 2 ^ width ≤ 2 ^ 12 := Nat.pow_le_pow_right (by decide) narrow
    exact (BitVec.toNat_ofNat ..).trans (Nat.mod_eq_of_lt (by omega))
  | byte use => cases held
  | hostWrite off => cases held

theorem generic_of_genericCode {ctx : Context} (h : ctx.genericCode = true) : ctx.size < 2 ∨ 8 < ctx.size := by
  cases ctx with
  | code size nent inserted width => exact of_decide_eq_true h
  | byte use => cases h
  | hostWrite off => cases h

/-- The byte a word holds (R65). -/
theorem decode_byte (use : ByteUse) (b : Byte) : decode (.byte use) (b.setWidth 32) = .ok (decodeByte use b) := by
  have value : (b.setWidth 32).toNat = b.toNat := BitVec.toNat_setWidth_of_le (by decide)
  rw [decode, if_pos (value ▸ b.isLt), BitVec.setWidth_setWidth_of_le _ (by decide), BitVec.setWidth_eq]

/-- Settles O1: the bytes by their place, the codes by the six tests, the host words by their offset. -/
theorem decodeOfEncode : Obligations.DecodeOfEncode := by
  intro ctx i wf fits
  cases i with
  | mcs b =>
    obtain rfl := of_decide_eq_true fits
    exact decode_byte .first b
  | len n =>
    obtain ⟨rfl, hn⟩ := of_decide_eq_true fits
    exact (decode_byte .length n).trans (congrArg Except.ok (if_neg hn))
  | data d =>
    obtain rfl := of_decide_eq_true fits
    exact decode_byte .data d
  | term =>
    obtain rfl := of_decide_eq_true fits
    exact decode_byte .length 0#8
  | clr =>
    obtain ⟨generic, held⟩ := Bool.and_eq_true_iff.1 fits
    have value := toNat_ofNat_of_holds held
    rw [encode, decode_clearRow rfl value (value.symm ▸ held), clearRow_of_generic (generic_of_genericCode generic)]
  | stop =>
    obtain ⟨generic, held⟩ := Bool.and_eq_true_iff.1 fits
    have value := toNat_ofNat_of_holds held
    rw [encode, decode_stopRow rfl value (value.symm ▸ held), stopRow_of_generic (generic_of_genericCode generic)]
  | inv c =>
    simp only [Instr.fits, Context.notControl, Bool.and_eq_true, decide_eq_true_eq] at fits
    obtain ⟨⟨held, clear, stop⟩, above⟩ := fits
    rw [encode, decode_code le_rfl held, BitVec.setWidth_eq, classify_of_inv clear stop above]
  | lit c =>
    simp only [Instr.fits, Bool.and_eq_true, decide_eq_true_eq] at fits
    obtain ⟨⟨generic, held⟩, root, below⟩ := fits
    rw [encode, decode_code le_rfl held, BitVec.setWidth_eq, classify_of_literal root below,
      literalRow_of_generic c (generic_of_genericCode generic)]
  | kwk c =>
    simp only [Instr.fits, Context.notControl, Bool.and_eq_true, decide_eq_true_eq] at fits
    obtain ⟨⟨⟨held, clear, stop⟩, ins⟩, root, newest⟩ := fits
    rw [encode, decode_code le_rfl held, BitVec.setWidth_eq, classify_of_kwk (by omega) newest ins]
  | ref c =>
    simp only [Instr.fits, Context.notControl, Bool.and_eq_true, decide_eq_true_eq] at fits
    obtain ⟨⟨held, clear, stop⟩, root, below, other⟩ := fits
    rw [encode, decode_code le_rfl held, BitVec.setWidth_eq, classify_of_ref (by omega) below other]
  | clrS2 | clrS3 | clrS4 | clrS5 | clrS6 | clrS7 | clrS8 =>
    exact decode_control_row (fun size => decode_clearRow size rfl) rfl fits
  | stopS2 | stopS3 | stopS4 | stopS5 | stopS6 | stopS7 | stopS8 =>
    exact decode_control_row (fun size => decode_stopRow size rfl) rfl fits
  | litS2 c | litS3 c | litS4 c | litS5 c | litS6 c | litS7 c | litS8 c =>
    rw [encode, decode_literal_row (by decide) fits, literalRow, setWidth_back c (by decide)]
  | setOrigin x y =>
    obtain rfl := of_decide_eq_true fits
    rw [encode, decode, decodeHostWrite, BitVec.extractLsb'_append_eq_right, BitVec.extractLsb'_append_eq_left]
  | setSubw w =>
    obtain rfl := of_decide_eq_true fits
    have low : (w.setWidth 32).extractLsb' 0 16 = w := by simp [← BitVec.setWidth_eq_extractLsb']
    rw [encode, decode, decodeHostWrite, low]
  | setCanvas cw ch =>
    obtain rfl := of_decide_eq_true fits
    rw [encode, decode, decodeHostWrite, BitVec.extractLsb'_append_eq_right, BitVec.extractLsb'_append_eq_left]
  | start =>
    obtain rfl := of_decide_eq_true fits
    rfl

/-! ## Encoding what was decoded -/

theorem encode_decodeByte (size : Nat) (use : ByteUse) (b : Byte) : encode size (decodeByte use b) = b.setWidth 32 := by
  cases use with
  | first | data => rfl
  | length =>
    rw [decodeByte]
    split
    case isTrue h => rw [h]; rfl
    case isFalse => rfl

theorem encode_clearRow (size : Nat) : encode size (clearRow size) = BitVec.ofNat 32 (2 ^ size) := by
  unfold clearRow
  split <;> rfl

theorem encode_stopRow (size : Nat) : encode size (stopRow size) = BitVec.ofNat 32 (2 ^ size + 1) := by
  unfold stopRow
  split <;> rfl

/-- The operand of a literal row is the code's low bits (R69), which for a literal are all it has. -/
theorem encode_literalRow {size : Nat} {c : Code} (root : c.toNat < 2 ^ size) :
    encode size (literalRow size c) = c.setWidth 32 := by
  have low : (c.setWidth size).setWidth 32 = c.setWidth 32 := by
    apply BitVec.eq_of_toNat_eq
    rw [BitVec.toNat_setWidth, BitVec.toNat_setWidth, BitVec.toNat_setWidth, Nat.mod_eq_of_lt root]
  unfold literalRow
  split
  case h_8 => rfl
  all_goals exact low

theorem setWidth_32_of_toNat {c : Code} {v : Nat} (h : c.toNat = v) : c.setWidth 32 = BitVec.ofNat 32 v := by
  apply BitVec.eq_of_toNat_eq
  rw [BitVec.toNat_setWidth, BitVec.toNat_ofNat, h]

theorem encode_classify (size nent : Nat) (inserted : Bool) (c : Code) :
    encode size (classify size nent inserted c) = c.setWidth 32 := by
  unfold classify
  split
  case isTrue clear => rw [encode_clearRow, setWidth_32_of_toNat clear]
  case isFalse =>
    split
    case isTrue stop => rw [encode_stopRow, setWidth_32_of_toNat stop]
    case isFalse =>
      split
      case isTrue => rfl
      case isFalse =>
        split
        case isTrue root => exact encode_literalRow root
        case isFalse => split <;> rfl

/-- The bits above a unit that a word fits are 0. -/
theorem setWidth_32_setWidth {n : Nat} {w : Word} (fits : w.toNat < 2 ^ n) : (w.setWidth n).setWidth 32 = w := by
  apply BitVec.eq_of_toNat_eq
  rw [BitVec.toNat_setWidth, BitVec.toNat_setWidth, Nat.mod_eq_of_lt fits, Nat.mod_eq_of_lt w.isLt]

/-- Settles O2: a word the decoder accepts has no bits above its unit, and every row's encoding keeps the unit's. -/
theorem encodeOfDecode : Obligations.EncodeOfDecode := by
  intro ctx w i noHost decoded
  cases ctx with
  | hostWrite off => exact absurd rfl (noHost off)
  | byte use =>
    rw [decode] at decoded
    split at decoded
    case isFalse => cases decoded
    case isTrue fits =>
      cases decoded
      rw [encode_decodeByte, setWidth_32_setWidth fits]
  | code size nent inserted width =>
    rw [decode] at decoded
    split at decoded
    case isFalse => cases decoded
    case isTrue fits =>
      cases decoded
      obtain ⟨narrow, fits⟩ := fits
      have unit : w.toNat < 2 ^ 12 := fits.trans_le (Nat.pow_le_pow_right (by decide) narrow)
      rw [Context.size, encode_classify, setWidth_32_setWidth unit]

/-! ## The mask patterns of a size -/

/-- A class tells its codes: two codes of one row have one encoding. -/
theorem toNat_of_classify_eq {size nent v : Nat} {inserted : Bool} {c : Code} {row : Instr} (small : v < 2 ^ 32)
    (encoding : encode size row = BitVec.ofNat 32 v) (h : classify size nent inserted c = row) : c.toNat = v := by
  have word : c.setWidth 32 = BitVec.ofNat 32 v := by rw [← encode_classify size nent inserted c, h, encoding]
  have value := congrArg BitVec.toNat word
  rwa [BitVec.toNat_setWidth_of_le (by decide), BitVec.toNat_ofNat, Nat.mod_eq_of_lt small] at value

/-- The operand of a literal row is below `2^S` (R69). -/
theorem encode_literalRow_lt {size : Nat} (least : 2 ≤ size) (greatest : size ≤ 8) (d : Code) :
    (encode size (literalRow size d)).toNat < 2 ^ size := by
  have low : ((d.setWidth size).setWidth 32).toNat < 2 ^ size := by
    rw [BitVec.toNat_setWidth_of_le (by omega)]
    exact (d.setWidth size).isLt
  interval_cases size <;> exact low

theorem eq_ofNat_12_iff {c : Code} {v : Nat} (small : v < 2 ^ 12) : c = BitVec.ofNat 12 v ↔ c.toNat = v := by
  rw [← BitVec.toNat_inj, BitVec.toNat_ofNat, Nat.mod_eq_of_lt small]

/-- The bits from `k` up are 0 (R69). -/
theorem and_not_low_eq_zero_iff {k : Nat} {c : Code} :
    c &&& (0xFFF#12 &&& ~~~(BitVec.ofNat 12 (2 ^ k - 1))) = 0#12 ↔ c.toNat < 2 ^ k := by
  have ones : (0xFFF#12 : Code) = BitVec.allOnes 12 := rfl
  have bit (i : Nat) : (c &&& (0xFFF#12 &&& ~~~(BitVec.ofNat 12 (2 ^ k - 1)))).getLsbD i =
      (c.toNat.testBit i && !decide (i < k)) := by
    rw [ones, BitVec.allOnes_and, BitVec.getLsbD_and, BitVec.getLsbD_not, BitVec.getLsbD_ofNat,
      Nat.testBit_two_pow_sub_one, ← BitVec.testBit_toNat]
    by_cases small : i < 12
    · simp [small]
    · simp [BitVec.testBit_toNat, BitVec.getLsbD_of_ge c i (by omega)]
  constructor
  · intro zero
    refine Nat.lt_pow_two_of_testBit _ fun i above => ?_
    have off := bit i
    rw [zero, BitVec.getLsbD_zero, decide_eq_false (by omega)] at off
    simpa using off.symm
  · intro below
    refine BitVec.eq_of_getLsbD_eq fun i _ => ?_
    rw [bit, BitVec.getLsbD_zero]
    by_cases low : i < k
    · simp [low]
    · rw [Nat.testBit_lt_two_pow (below.trans_le (Nat.pow_le_pow_right (by decide) (by omega)))]
      rfl

/-- Settles O4: each row has the codes of one encoding, and the masks name them. -/
theorem maskRowsDecode : Obligations.MaskRowsDecode := by
  intro k nent inserted c least greatest count
  have small : 2 ^ k ≤ 2 ^ 8 := Nat.pow_le_pow_right (by decide) greatest
  have ones : c &&& 0xFFF#12 = c := BitVec.and_allOnes
  refine ⟨?clear, ?stop, ?literal⟩
  case clear =>
    rw [ones, eq_ofNat_12_iff (by omega)]
    exact ⟨toNat_of_classify_eq (by omega) (encode_clearRow k), classify_of_clear⟩
  case stop =>
    rw [ones, eq_ofNat_12_iff (by omega)]
    exact ⟨toNat_of_classify_eq (by omega) (encode_stopRow k), classify_of_stop⟩
  case literal =>
    rw [and_not_low_eq_zero_iff]
    constructor
    · rintro ⟨d, h⟩
      have low := encode_literalRow_lt least greatest d
      rwa [← h, encode_classify, BitVec.toNat_setWidth_of_le (by decide)] at low
    · exact fun root => ⟨c, classify_of_literal root (by omega)⟩

/-- Settles O5: one word of each family, read by the decoder itself. -/
theorem wordsDecode : Obligations.WordsDecode := by
  unfold Obligations.WordsDecode
  decide

end Sys2Proof
end

section
/-!
What a step can do (R5, R80, R120, R131; log 1), said once: the outcomes of the `SYMBOL` step, of the block's turn and
of an event of the environment; and O28, O54.
-/
namespace Sys2Proof.Machine

/-! ## The fetch of `SYMBOL` -/

/-- The insertion phase and the fetch of `SYMBOL` (R120) have gone through: a code, and the state its class is read
in. -/
def codeRead (s : State) (c : Nat) (u : State) : Prop :=
  ∃ t, insertPhase s = .go () t ∧ readCode t.width.toNat t = .go c u

theorem fetchSymbol_of_insert_halt {s : State} {o : Result} (h : insertPhase s = .halt o) :
    fetchSymbol s = .halt o := by
  rw [fetchSymbol, h, andThen_of_halt]

theorem fetchSymbol_of_read_halt {s t : State} {o : Result} (ins : insertPhase s = .go () t)
    (h : readCode t.width.toNat t = .halt o) : fetchSymbol s = .halt o := by
  rw [fetchSymbol, ins, andThen_of_go, h, andThen_of_halt]

theorem fetchSymbol_of_codeRead {s u : State} {c : Nat} (read : codeRead s c u) :
    fetchSymbol s = .go (codeInstr c u) u := by
  obtain ⟨t, ins, h⟩ := read
  rw [fetchSymbol, ins, andThen_of_go, h, andThen_of_go]

theorem step_of_symbol {s : State} {e : List EnvEvent} (turn : blockTurn s e) (busy : s.state = .busy)
    (symbol : s.phase = .symbol) : step s = runFetched (fetchedOf (fetchSymbol { s with env := e })) := by
  rw [step_of_blockTurn turn, fetchBlock, if_pos busy]
  simp only [symbol]

theorem step_of_symbol_halt {s : State} {e : List EnvEvent} {o : Result} (turn : blockTurn s e)
    (busy : s.state = .busy) (symbol : s.phase = .symbol) (h : fetchSymbol { s with env := e } = .halt o) :
    step s = o := by
  rw [step_of_symbol turn busy symbol, h]
  rfl

theorem step_of_codeRead {s u : State} {e : List EnvEvent} {c : Nat} (turn : blockTurn s e) (busy : s.state = .busy)
    (symbol : s.phase = .symbol) (read : codeRead { s with env := e } c u) : step s = exec (codeInstr c u) u := by
  rw [step_of_symbol turn busy symbol, fetchSymbol_of_codeRead read]
  rfl

/-- Settles O28: the block's turn runs what was fetched, a host write the command it decodes to. -/
theorem stepRunsDecodedInstruction : Obligations.StepRunsDecodedInstruction := by
  intro s
  refine ⟨?size, ?noCode, ?code, ?noRoom, ?command⟩
  case size => exact fun e b r turn busy init hw hb => step_of_init_go turn busy init (fetchInit_of_cons hw hb)
  case noCode =>
    exact fun e t o turn busy symbol ins h => step_of_symbol_halt turn busy symbol (fetchSymbol_of_read_halt ins h)
  case code => exact fun e t c u turn busy symbol ins h => step_of_codeRead turn busy symbol ⟨t, ins, h⟩
  case noRoom =>
    exact fun e o turn busy symbol h => step_of_symbol_halt turn busy symbol (fetchSymbol_of_insert_halt h)
  case command => exact fun off v r i turn command => step_of_command turn command

/-- Settles O54: outside `BUSY` the turn is an end without an instruction. -/
theorem nothingEnabledOutsideBusy : Obligations.NothingEnabledOutsideBusy := by
  intro s e turn rest
  rw [step_of_blockTurn turn, fetchBlock_at_rest (s := { s with env := e }) rest]
  rfl

/-! ## The outcomes of the block's turn -/

/-- The next states of a `SYMBOL` step (R120), by the operation that ends it. -/
inductive SymbolStep (s : State) : State → Prop
  | noRoom (prev : s.hasPrev = true) (notFull : s.full = false) (depth : s.params.tableDepth ≤ s.nent.toNat) :
      SymbolStep s (faulted .outOfMemory s.nent.toNat s)
  | noCode {t u : State} {c : Cause} {n : Nat} (ins : insertPhase s = .go () t)
      (halts : readCode t.width.toNat t = .halt (.next (faulted c n u))) (moved : bitReaderMoved t u)
      (cause : c = .unexpectedEof ∨ c = .prematureTerminator) : SymbolStep s (faulted c n u)
  | clear {c : Nat} {u : State} (read : codeRead s c u) (isClear : (BitVec.ofNat 12 c).toNat = 2 ^ u.size.toNat) :
      SymbolStep s (clearReset u.size.toNat u)
  | stop {c : Nat} {u t : State} (read : codeRead s c u)
      (notClear : (BitVec.ofNat 12 c).toNat ≠ 2 ^ u.size.toNat)
      (isStop : (BitVec.ofNat 12 c).toNat = 2 ^ u.size.toNat + 1) (ends : stopCode u = .next t) : SymbolStep s t
  | invalid {c : Nat} {u : State} (read : codeRead s c u)
      (notClear : (BitVec.ofNat 12 c).toNat ≠ 2 ^ u.size.toNat)
      (notStop : (BitVec.ofNat 12 c).toNat ≠ 2 ^ u.size.toNat + 1)
      (above : u.nent.toNat ≤ (BitVec.ofNat 12 c).toNat) :
      SymbolStep s (faulted .invalidCode (BitVec.ofNat 12 c).toNat (growWidth u))
  | data {c : Nat} {u t : State} (read : codeRead s c u)
      (notClear : (BitVec.ofNat 12 c).toNat ≠ 2 ^ u.size.toNat)
      (notStop : (BitVec.ofNat 12 c).toNat ≠ 2 ^ u.size.toNat + 1)
      (below : (BitVec.ofNat 12 c).toNat < u.nent.toNat) (does : dataCode (BitVec.ofNat 12 c) u = .next t) :
      SymbolStep s t

/-- The next states of the block's turn (R80, R120, R131). -/
inductive BlockStep (s : State) : State → Prop
  | rest (atRest : s.state ≠ .busy) : BlockStep s s
  | badGeometry (busy : s.state = .busy) (init : s.phase = .init) : BlockStep s (faulted .badGeometry 0 s)
  | noSize (busy : s.state = .busy) (init : s.phase = .init) : BlockStep s (faulted .unexpectedEof s.off.toNat s)
  | badSize {b : Byte} {r : List Byte} (busy : s.state = .busy) (init : s.phase = .init) (hb : s.bs = b :: r) :
      BlockStep s (faulted .badMinCodeSize b.toNat (consume b r s))
  | seeds {b : Byte} {r : List Byte} (busy : s.state = .busy) (init : s.phase = .init) (hw : s.w ≠ 0#16)
      (hb : s.bs = b :: r) (least : 2 ≤ b.toNat) (greatest : b.toNat ≤ 8) :
      BlockStep s (seeded b.toNat (consume b r s))
  | symbol {t : State} (busy : s.state = .busy) (symbol : s.phase = .symbol) (h : SymbolStep s t) : BlockStep s t

theorem insertPhase_flight {s t : State} (h : insertPhase s = .go () t) : t.flight.draining = false := by
  rcases insertPhase_cases s with ⟨-, -, -, hp⟩ | ⟨-, -, -, hp⟩ | ⟨-, hp⟩ <;> rw [hp] at h <;> cases h <;> rfl

/-- Between the insertion phase and the class only the bit reader moves (R83). -/
theorem codeRead_moved {s u : State} {c : Nat} (h : codeRead s c u) :
    ∃ t, insertPhase s = .go () t ∧ bitReaderMoved t u := by
  obtain ⟨t, ins, read⟩ := h
  refine ⟨t, ins, ?_⟩
  rcases readCode_cases _ t (insertPhase_flight ins) with ⟨-, hr⟩ | ⟨c', u', hr, moved, -⟩ | ⟨c', n, u', hr, -⟩ <;>
    rw [hr] at read <;> cases read
  exact moved

theorem symbolStep_of_next {s t : State} (h : runFetched (fetchedOf (fetchSymbol s)) = .next t) : SymbolStep s t := by
  rcases insertPhase_cases s with ⟨prev, notFull, depth, hp⟩ | ⟨-, -, -, hp⟩ | ⟨-, hp⟩
  case inl =>
    rw [fetchSymbol_of_insert_halt hp] at h
    cases h
    exact .noRoom prev notFull depth
  all_goals
    have code := insertPhase_flight hp
    rcases readCode_cases _ _ code with ⟨-, hr⟩ | ⟨c, u, hr, -⟩ | ⟨c, n, u, hr, moved, -, cause⟩
    case inl => rw [fetchSymbol_of_read_halt hp hr] at h; cases h
    case inr.inr =>
      rw [fetchSymbol_of_read_halt hp hr] at h
      cases h
      exact .noCode hp hr moved (cause.imp And.left id)
    case inr.inl =>
      have read : codeRead s c u := ⟨_, hp, hr⟩
      rw [fetchSymbol_of_codeRead read, fetchedOf, runFetched_run, codeInstr, exec_classify _ _ _ _ _ rfl] at h
      split at h
      case isTrue isClear => cases h; exact .clear read isClear
      case isFalse notClear =>
        split at h
        case isTrue isStop => exact .stop read notClear isStop h
        case isFalse notStop =>
          split at h
          case isTrue above => cases h; exact .invalid read notClear notStop above
          case isFalse below => exact .data read notClear notStop (Nat.not_le.1 below) h

theorem blockStep_of_next {s t : State} (h : runFetched (fetchBlock s) = .next t) : BlockStep s t := by
  rcases fetchBlock_cases s with ⟨rest, hf⟩ | ⟨busy, init, hf⟩ | ⟨busy, symbol, hf⟩ <;> rw [hf] at h
  case inl => cases h; exact .rest rest
  case inr.inr => exact .symbol busy symbol (symbolStep_of_next h)
  case inr.inl =>
    by_cases hw : s.w = 0#16
    case pos =>
      rw [fetchInit_of_zeroWidth hw] at h
      cases h
      exact .badGeometry busy init
    case neg =>
      rcases hb : s.bs with _ | ⟨b, r⟩
      case nil =>
        rw [fetchInit_of_empty hw hb] at h
        cases h
        exact .noSize busy init
      case cons =>
        rw [fetchInit_of_cons hw hb, fetchedOf, runFetched_run] at h
        by_cases illegal : b.toNat < 2 ∨ 8 < b.toNat
        case pos =>
          rw [exec_mcs_of_illegal _ illegal] at h
          cases h
          exact .badSize busy init hb
        case neg =>
          rw [exec_mcs_of_legal _ (by omega) (by omega)] at h
          cases h
          exact .seeds busy init hw hb (by omega) (by omega)

/-! ## The outcomes of an event of the environment -/

/-- The next states of an event that is not the block's turn (R140 to R143, R170, R172, R174). -/
inductive HostStep : EnvEvent → State → State → Prop
  | ignored (bits off : Nat) (v : Word) (s : State) : HostStep (.write bits off v) s s
  | geometry (bits off : Nat) (v : Word) {s : State} (rest : s.state ≠ .busy) (x y w cw ch : BitVec 16) :
      HostStep (.write bits off v) s { s with x := x, y := y, w := w, cw := cw, ch := ch }
  | start (bits off : Nat) (v : Word) {s : State} (rest : s.state ≠ .busy) :
      HostStep (.write bits off v) s (started s)
  | read (bits off : Nat) (v : Word) (s : State) : HostStep (.read bits off) s { s with hostData := some v }
  | reset (s : State) : HostStep .reset s (hardwareReset s)
  | source (bytes : List Byte) {s : State} (rest : s.state ≠ .busy) : HostStep (.source bytes) s { s with bs := bytes }
  | frame (a : Nat) (v : Byte) {s : State} (rest : s.state ≠ .busy) :
      HostStep (.frame a v) s { s with fb := store s.fb a v }

/-- The step of a command: while `BUSY` it is ignored (R141, R142). -/
theorem hostStep_of_unlessBusy {e : EnvEvent} {f : State → State} {s t : State} (ignored : HostStep e s s)
    (meaning : s.state ≠ .busy → HostStep e s (f s)) (h : unlessBusy f s = .next t) : HostStep e s t := by
  by_cases busy : s.state = .busy
  · rw [unlessBusy_of_busy f busy] at h
    cases h
    exact ignored
  · rw [unlessBusy_of_not_busy f busy] at h
    cases h
    exact meaning busy

/-- A word write that is a command is `START`, or it writes geometry registers (R73, R141, R142). -/
theorem command_cases {off : Nat} {v : Word} {i : Instr} (h : decodeHostWrite off v = .ok i) :
    (∀ s, exec i s = unlessBusy started s) ∨
      ∃ f : State → State, (∀ s, exec i s = unlessBusy f s) ∧
        ∀ s, ∃ x y w cw ch, f s = { s with x := x, y := y, w := w, cw := cw, ch := ch } := by
  unfold decodeHostWrite at h
  split at h
  case h_1 =>
    split at h <;> cases h
    exact .inl exec_start
  case h_3 =>
    cases h
    exact .inr ⟨_, exec_setOrigin _ _, fun s => ⟨_, _, s.w, s.cw, s.ch, rfl⟩⟩
  case h_4 =>
    cases h
    exact .inr ⟨_, exec_setSubw _, fun s => ⟨s.x, s.y, _, s.cw, s.ch, rfl⟩⟩
  case h_5 =>
    cases h
    exact .inr ⟨_, exec_setCanvas _ _, fun s => ⟨s.x, s.y, s.w, _, _, rfl⟩⟩
  all_goals cases h

theorem hostStep_of_write {bits off : Nat} {v : Word} {s t : State}
    (h : runFetched (fetchWrite bits off v s) = .next t) : HostStep (.write bits off v) s t := by
  have ignored : HostStep (.write bits off v) s s := .ignored bits off v s
  unfold fetchWrite at h
  split at h
  case isFalse => cases h
  case isTrue =>
    split at h
    case h_1 i command =>
      rw [runFetched_run] at h
      rcases command_cases command with meaning | ⟨f, meaning, geometry⟩ <;> rw [meaning] at h
      · exact hostStep_of_unlessBusy ignored (.start bits off v) h
      · refine hostStep_of_unlessBusy ignored (fun rest => ?_) h
        obtain ⟨x, y, w, cw, ch, hf⟩ := geometry s
        exact hf ▸ .geometry bits off v rest x y w cw ch
    case h_3 => cases h; exact ignored
    all_goals cases h

theorem hostStep_of_read {bits off : Nat} {s t : State} (h : hostRead bits off s = .next t) :
    HostStep (.read bits off) s t := by
  unfold hostRead at h
  split at h <;> cases h
  exact .read bits off _ s

theorem hostStep_of_source {bytes : List Byte} {s t : State} (h : placeSource bytes s = .next t) :
    HostStep (.source bytes) s t := by
  unfold placeSource at h
  split at h <;> cases h
  exact .source bytes ‹_›

theorem hostStep_of_frame {a : Nat} {v : Byte} {s t : State} (h : placeFrameByte a v s = .next t) :
    HostStep (.frame a v) s t := by
  unfold placeFrameByte at h
  split at h
  case isTrue => cases h
  case isFalse rest =>
    split at h <;> cases h
    exact .frame a v rest

/-- A step is the block's turn, or the event of the environment at the script's head (log 1). -/
theorem step_cases {s t : State} (h : step s = .next t) :
    (∃ e, blockTurn s e ∧ BlockStep { s with env := e } t) ∨
      ∃ ev r, s.env = ev :: r ∧ ev ≠ .tick ∧ HostStep ev { s with env := r } t := by
  have block {e : List EnvEvent} (turn : blockTurn s e) : ∃ e, blockTurn s e ∧ BlockStep { s with env := e } t :=
    ⟨e, turn, blockStep_of_next (step_of_blockTurn turn ▸ h)⟩
  cases script : s.env with
  | nil => exact .inl (block (.inl ⟨script, rfl⟩))
  | cons ev r =>
    rw [step_of_event script] at h
    cases ev with
    | tick => exact .inl (block (.inr script))
    | write bits off v => exact .inr ⟨_, r, rfl, nofun, hostStep_of_write h⟩
    | read bits off => exact .inr ⟨_, r, rfl, nofun, hostStep_of_read h⟩
    | reset => cases h; exact .inr ⟨_, r, rfl, nofun, .reset _⟩
    | source bytes => exact .inr ⟨_, r, rfl, nofun, hostStep_of_source h⟩
    | frame a v => exact .inr ⟨_, r, rfl, nofun, hostStep_of_frame h⟩

theorem blockStep_of_blockTurn {s t : State} {e : List EnvEvent} (turn : blockTurn s e) (h : step s = .next t) :
    BlockStep { s with env := e } t := blockStep_of_next (step_of_blockTurn turn ▸ h)

end Sys2Proof.Machine
end

section
/-!
What every step of the block leaves unchanged and in which order it acts on its ports (R5, R22, R26, R31, R51, R141): a
frame that the phases of a step hand on, and O46, O49, O50, O55.
-/
namespace Sys2Proof.Machine

/-! ## The frame of the block's turn -/

/-- Between two states the block has consumed bytes and then made the writes `ws` (the newest first); the parameters
and the geometry are the same, and the table is in canonical form if it was. -/
structure Performed (ws : List Host.Cell) (s t : State) : Prop where
  ports : ∃ bytes, t.ports = wroteRecord ws ++ byteRecord bytes ++ s.ports ∧ s.bs = bytes ++ t.bs
  frame : t.fb = applyWrites ws s.fb
  params : t.params = s.params
  geometry : (t.x, t.y, t.w, t.cw, t.ch) = (s.x, s.y, s.w, s.cw, s.ch)
  tableForm : Memory.wf s.table = true → Memory.wf t.table = true

/-- The reading phase of a step comes before its writes. -/
theorem Performed.trans {ws : List Host.Cell} {s t u : State} (h : Performed [] s t) (k : Performed ws t u) :
    Performed ws s u := by
  obtain ⟨a, ports, bs⟩ := h.ports
  obtain ⟨b, ports', bs'⟩ := k.ports
  refine ⟨⟨a ++ b, ?_, ?_⟩, ?_, k.params.trans h.params, k.geometry.trans h.geometry,
    fun form => k.tableForm (h.tableForm form)⟩
  · rw [ports', ports, byteRecord_append]
    simp [wroteRecord]
  · rw [bs, bs', List.append_assoc]
  · rw [k.frame, h.frame, applyWrites]

/-- Consuming bytes, and updates of the registers of the decoder and the bit reader. -/
theorem performed_of_tookBytes {s t : State} (took : tookBytes s t) (frame : t.fb = s.fb) (params : t.params = s.params)
    (geometry : (t.x, t.y, t.w, t.cw, t.ch) = (s.x, s.y, s.w, s.cw, s.ch))
    (tableForm : Memory.wf s.table = true → Memory.wf t.table = true) : Performed [] s t := by
  obtain ⟨bytes, bs, ports⟩ := took
  exact ⟨⟨bytes, ports, bs⟩, frame, params, geometry, tableForm⟩

theorem performed_refl (s : State) : Performed [] s s :=
  performed_of_tookBytes (tookBytes_none rfl rfl) rfl rfl rfl id

theorem performed_consume {s : State} {b : Byte} {r : List Byte} (hb : s.bs = b :: r) :
    Performed [] s (consume b r s) :=
  performed_of_tookBytes (tookBytes_consume hb) rfl rfl rfl id

/-- A fault keeps everything the frame speaks of; it empties the table (R150). -/
theorem Performed.faulted {ws : List Host.Cell} {s t : State} (h : Performed ws s t) (c : Cause) (n : Nat) :
    Performed ws s (faulted c n t) := ⟨h.ports, h.frame, h.params, h.geometry, fun _ => rfl⟩

theorem performed_finished (s : State) : Performed [] s (finished s) :=
  performed_of_tookBytes (tookBytes_none rfl rfl) rfl rfl rfl (fun _ => rfl)

theorem performed_seeded (size : Nat) (s : State) : Performed [] s (seeded size s) :=
  performed_of_tookBytes (tookBytes_none rfl rfl) rfl rfl rfl (fun _ => rootEntries_wf size)

theorem performed_clearReset (size : Nat) (s : State) : Performed [] s (clearReset size s) :=
  performed_of_tookBytes (tookBytes_none rfl rfl) rfl rfl rfl (fun form => entriesBelow_wf form _)

theorem performed_growWidth (s : State) : Performed [] s (growWidth s) := by
  rw [growWidth_eq]
  exact performed_of_tookBytes (tookBytes_none rfl rfl) rfl rfl rfl id

theorem performed_insertPhase {s t : State} (h : insertPhase s = .go () t) : Performed [] s t := by
  rcases insertPhase_cases s with ⟨-, -, -, hp⟩ | ⟨-, -, -, hp⟩ | ⟨-, hp⟩ <;> rw [hp] at h <;> cases h
  · exact performed_of_tookBytes (tookBytes_none rfl rfl) rfl rfl rfl (fun form => store_wf form _ _)
  · exact performed_of_tookBytes (tookBytes_none rfl rfl) rfl rfl rfl id

theorem performed_bitReaderMoved {s t : State} (h : bitReaderMoved s t) : Performed [] s t := by
  obtain ⟨frame, took⟩ := h
  refine performed_of_tookBytes took ?_ ?_ ?_ ?_ <;> rw [frame]
  exact id

theorem performed_drained {s t : State} (h : drained s t) : Performed [] s t := by
  obtain ⟨frame, took⟩ := h
  refine performed_of_tookBytes took ?_ ?_ ?_ ?_ <;> rw [frame]
  exact id

theorem performed_painted (ws : List Host.Cell) (s : State) : Performed ws s (painted ws s) :=
  ⟨⟨[], by simp [painted], rfl⟩, rfl, rfl, rfl, id⟩

theorem repairedTable_wf {s : State} (form : Memory.wf s.table = true) (v : Byte) :
    Memory.wf (repairedTable s v) = true := by
  unfold repairedTable
  split
  · exact storeSuffix_wf form _ _
  · exact form

theorem performed_dataDone (c : Code) (len : BitVec 13) (v : Byte) (ws : List Host.Cell) (s : State) :
    Performed ws s (dataDone c len v (painted ws (growWidth s))) := by
  rw [dataDone_eq]
  exact ⟨⟨[], by simp, rfl⟩, rfl, rfl, rfl, fun form => repairedTable_wf form v⟩

/-- The first two phases of `SYMBOL` only consume bytes (R102, R83). -/
theorem performed_codeRead {s u : State} {c : Nat} (h : codeRead s c u) : Performed [] s u := by
  obtain ⟨t, ins, moved⟩ := codeRead_moved h
  exact (performed_insertPhase ins).trans (performed_bitReaderMoved moved)

theorem performed_stopCode {u t : State} (h : stopCode u = .next t) : Performed [] u t := by
  rcases stopCode_cases u with ⟨v, hv, frame, took⟩ | ⟨v, hv, ends, -⟩ <;> rw [hv] at h <;> cases h
  · have ends : drained u v := ⟨by rw [frame], took⟩
    exact (performed_drained ends).trans (performed_finished v)
  · exact (performed_drained ends).faulted _ _

theorem performed_dataCode {c : Code} {u t : State} (h : dataCode c u = .next t) : ∃ ws, Performed ws u t := by
  rcases dataCode_cases c u with ⟨e, v, ws, -, hd⟩ | ⟨p, ws, hd⟩ | ⟨_, hd⟩ | ⟨_, hd⟩ <;> rw [hd] at h <;> cases h
  · exact ⟨ws, performed_dataDone c e.len v ws u⟩
  · exact ⟨ws, ((performed_growWidth u).trans (performed_painted ws _)).faulted _ _⟩

theorem SymbolStep.performed {s t : State} (h : SymbolStep s t) : ∃ ws, Performed ws s t := by
  cases h with
  | noRoom prev notFull depth => exact ⟨[], (performed_refl s).faulted _ _⟩
  | noCode ins halts moved cause =>
    exact ⟨[], ((performed_insertPhase ins).trans (performed_bitReaderMoved moved)).faulted _ _⟩
  | clear read isClear => exact ⟨[], (performed_codeRead read).trans (performed_clearReset _ _)⟩
  | stop read notClear isStop ends => exact ⟨[], (performed_codeRead read).trans (performed_stopCode ends)⟩
  | invalid read notClear notStop above =>
    exact ⟨[], ((performed_codeRead read).trans (performed_growWidth _)).faulted _ _⟩
  | data read notClear notStop below does =>
    obtain ⟨ws, done⟩ := performed_dataCode does
    exact ⟨ws, (performed_codeRead read).trans done⟩

/-- Every turn of the block consumes bytes and then makes its writes. -/
theorem BlockStep.performed {s t : State} (h : BlockStep s t) : ∃ ws, Performed ws s t := by
  cases h with
  | rest atRest => exact ⟨[], performed_refl s⟩
  | badGeometry busy init => exact ⟨[], (performed_refl s).faulted _ _⟩
  | noSize busy init => exact ⟨[], (performed_refl s).faulted _ _⟩
  | badSize busy init hb => exact ⟨[], (performed_consume hb).faulted _ _⟩
  | seeds busy init hw hb least greatest => exact ⟨[], (performed_consume hb).trans (performed_seeded _ _)⟩
  | symbol busy symbol h => exact h.performed

/-! ## The obligations -/

/-- Settles O46: the block writes through `store` and drops entries; the environment stores or resets. -/
theorem stepKeepsCanonicalForm : Obligations.StepKeepsCanonicalForm := by
  intro s t frameForm tableForm h
  rcases step_cases h with ⟨e, -, block⟩ | ⟨ev, r, -, -, host⟩
  · obtain ⟨ws, done⟩ := block.performed
    exact ⟨done.frame ▸ applyWrites_wf ws frameForm, done.tableForm tableForm⟩
  · cases host with
    | reset => exact ⟨frameAfterReset_wf frameForm, rfl⟩
    | frame a v rest => exact ⟨store_wf frameForm a v, tableForm⟩
    | _ => exact ⟨frameForm, tableForm⟩

/-- Settles O49: no phase of the block writes the geometry, and the host's writes come outside `BUSY` (R141). -/
theorem geometryFixedWhileBusy : Obligations.GeometryFixedWhileBusy := by
  intro s t h
  rcases step_cases h with ⟨e, -, block⟩ | ⟨ev, r, script, -, host⟩
  · obtain ⟨ws, done⟩ := block.performed
    exact ⟨done.params, fun _ _ => done.geometry⟩
  · cases host with
    | geometry bits off v rest => exact ⟨rfl, fun busy => absurd busy rest⟩
    | reset => exact ⟨rfl, fun _ noReset => absurd script (noReset r)⟩
    | _ => exact ⟨rfl, fun _ _ => rfl⟩

/-- Settles O50: the bytes the turn consumed stood in front of those that are left. -/
theorem sourceConsumedInOrder : Obligations.SourceConsumedInOrder := by
  intro s t e turn h
  obtain ⟨ws, done⟩ := (blockStep_of_blockTurn turn h).performed
  obtain ⟨bytes, -, bs⟩ := done.ports
  exact ⟨bytes, bs.symm⟩

/-- Settles O55: the turn's record is its frame's; no event of the environment touches the record. -/
theorem portsShowStepOrder : Obligations.PortsShowStepOrder := by
  intro s t h
  constructor
  · intro e turn
    obtain ⟨ws, done⟩ := (blockStep_of_blockTurn turn h).performed
    obtain ⟨bytes, ports, bs⟩ := done.ports
    exact ⟨bytes, ws, ports, bs, done.frame⟩
  · intro noTurn
    rcases step_cases h with ⟨e, turn, -⟩ | ⟨ev, r, -, -, host⟩
    · exact absurd turn (noTurn e)
    · cases host <;> rfl

end Sys2Proof.Machine
end

section
/-!
The code table (R24, R100 to R107): what the seeding and a clear code leave, runs under a change of the table, the
entry an insertion adds; and O14 to O17, O31, O32.
-/
namespace Sys2Proof.Machine

/-! ## The seeding -/

theorem seeded_size_toNat {n : Nat} (s : State) (greatest : n ≤ 8) : (seeded n s).size.toNat = n := by
  rw [seeded_size, BitVec.toNat_ofNat]
  omega

theorem freshRegisters_width_toNat {n : Nat} (s : State) (greatest : n ≤ 8) :
    (freshRegisters n s).width.toNat = n + 1 := by
  rw [freshRegisters_width, BitVec.toNat_ofNat]
  omega

theorem freshRegisters_nent_toNat {n : Nat} (s : State) (greatest : n ≤ 8) :
    (freshRegisters n s).nent.toNat = 2 ^ n + 2 := by
  have : 2 ^ n ≤ 2 ^ 8 := Nat.pow_le_pow_right (by decide) greatest
  rw [freshRegisters_nent, BitVec.toNat_ofNat]
  exact Nat.mod_eq_of_lt (by omega)

theorem lookup_rootEntries_of_lt {n k : Nat} (h : k < 2 ^ n) :
    lookup (rootEntries n) k = some { len := 1#13, pfx := none, suffix := BitVec.ofNat 8 k } :=
  (lookup_rootEntries n k).trans (if_pos h)

theorem lookup_rootEntries_of_ge {n k : Nat} (h : 2 ^ n ≤ k) : lookup (rootEntries n) k = none :=
  (lookup_rootEntries n k).trans (if_neg (Nat.not_lt.2 h))

/-- Settles O14: `MCS` is the seeding. -/
theorem mcsSeedsRoots : Obligations.McsSeedsRoots := by
  intro b s least greatest
  exact ⟨_, exec_mcs_of_legal s least greatest, seeded_size_toNat s greatest, freshRegisters_width_toNat s greatest,
    freshRegisters_nent_toNat s greatest, rfl, rfl, rfl, rootEntries_wf _, fun _ => lookup_rootEntries_of_lt,
    fun _ => lookup_rootEntries_of_ge⟩

/-! ## The clear code -/

theorem exec_clr (s : State) : exec .clr s = clearCode s.size.toNat s := rfl

theorem exec_clearRow {k : Nat} (s : State) (least : 2 ≤ k) (greatest : k ≤ 8) :
    exec (clearRow k) s = clearCode k s := by
  interval_cases k <;> rfl

/-- Settles O15: every row of a size is the reset of that size. -/
theorem clearCodeResets : Obligations.ClearCodeResets := by
  intro k s least greatest
  refine ⟨exec_clearRow s least greatest, ?_⟩
  rintro rfl
  exact exec_clr s

/-- All entries that the seeding leaves are below the clear code. -/
theorem entriesBelow_rootEntries (n : Nat) : entriesBelow (2 ^ n) (rootEntries n) = rootEntries n := by
  refine List.filter_eq_self.2 fun e he => ?_
  obtain ⟨k, hk, rfl⟩ := List.mem_map.1 he
  exact decide_eq_true (List.mem_range.1 hk)

theorem clearReset_seeded (n : Nat) (s : State) : clearReset n (seeded n s) = seeded n s := by
  rw [clearReset, seeded_table, entriesBelow_rootEntries]
  rfl

/-- Settles O16: the registers are reset to what they are, and no entry is dropped. -/
theorem clearAfterInitChangesNothing : Obligations.ClearAfterInitChangesNothing := by
  intro b s t least greatest h
  rw [exec_mcs_of_legal s least greatest] at h
  cases h
  rw [exec_clr, seeded_size_toNat s greatest, clearCode, clearReset_seeded]

/-- Settles O17: the rows of one class share one operation. -/
theorem perSizeRowsAgree : Obligations.PerSizeRowsAgree := by
  rintro k s c least greatest rfl
  exact ⟨exec_clearRow s least greatest, exec_stopRow _ s, exec_literalRow s⟩

/-! ## Runs -/

theorem runOf_of_link {t : List (Nat × Entry)} {f i : Nat} {e : Entry} {j : Code} {q : List Byte}
    (he : lookup t i = some e) (link : e.pfx = some j) (hq : runOf t f j.toNat = some q)
    (len : e.len.toNat = q.length + 1) : runOf t (f + 1) i = some (q ++ [e.suffix]) := by
  simp [runOf, he, link, hq, len]

theorem runOf_of_no_link {t : List (Nat × Entry)} {f i : Nat} {e : Entry} (he : lookup t i = some e)
    (root : e.pfx = none) (len : e.len.toNat = 1) : runOf t (f + 1) i = some [e.suffix] := by
  simp [runOf, he, root, len]

theorem runOf_length_le {t : List (Nat × Entry)} {f i : Nat} {r : List Byte} (h : runOf t f i = some r) :
    r.length ≤ f := by
  induction f generalizing i r with
  | zero => cases h
  | succ f ih =>
    obtain ⟨e, q, -, rfl, -, ⟨-, rfl⟩ | ⟨j, -, hq⟩⟩ := runOf_succ h
    · simp
    · simpa using ih hq

/-- A run does not depend on the fuel, as long as that is enough for its length. -/
theorem runOf_of_length_le {t : List (Nat × Entry)} {f g i : Nat} {r : List Byte} (h : runOf t f i = some r)
    (fuel : r.length ≤ g) : runOf t g i = some r := by
  induction f generalizing g i r with
  | zero => cases h
  | succ f ih =>
    obtain ⟨e, q, he, rfl, len, chain⟩ := runOf_succ h
    obtain ⟨g, rfl⟩ : ∃ m, g = m + 1 := ⟨g - 1, by simp at fuel; omega⟩
    rcases chain with ⟨root, rfl⟩ | ⟨j, link, hq⟩
    · exact runOf_of_no_link he root len
    · exact runOf_of_link he link (ih hq (by simpa using fuel)) len

/-- Entries that are added to a table leave the runs it has. -/
theorem runOf_of_extended {t t' : List (Nat × Entry)} (extended : ∀ i e, lookup t i = some e → lookup t' i = some e)
    {f i : Nat} {r : List Byte} (h : runOf t f i = some r) : runOf t' f i = some r := by
  induction f generalizing i r with
  | zero => cases h
  | succ f ih =>
    obtain ⟨e, q, he, rfl, len, ⟨root, rfl⟩ | ⟨j, link, hq⟩⟩ := runOf_succ h
    · exact runOf_of_no_link (extended i e he) root len
    · exact runOf_of_link (extended i e he) link (ih hq) len

theorem lookup_store_of_unused {t : List (Nat × Entry)} {k : Nat} (unused : lookup t k = none) (v : Entry) (i : Nat)
    (e : Entry) (he : lookup t i = some e) : lookup (store t k v) i = some e := by
  have other : i ≠ k := fun h => absurd (h ▸ he) (unused ▸ nofun)
  rw [lookup_store_other t v other, he]

/-! ## The runs of a table that meets the invariant -/

section
variable {s : State} (inv : TableInv s)
include inv

/-- Every index below `NENT` but those of the two control codes has a run, of its entry's length (R107). -/
theorem runOf_of_tableInv {c : Nat} (below : c < s.nent.toNat) (notClear : c ≠ 2 ^ s.size.toNat)
    (notStop : c ≠ 2 ^ s.size.toNat + 1) :
    ∃ r e, runOf s.table (c + 1) c = some r ∧ lookup s.table c = some e ∧ e.len.toNat = r.length ∧
      (r.length = 1 ∨ r.length + 2 ^ s.size.toNat ≤ c) := by
  induction c using Nat.strong_induction_on with
  | _ c ih =>
    by_cases root : c < 2 ^ s.size.toNat
    case pos => exact ⟨_, _, runOf_root (inv.roots c root), inv.roots c root, rfl, .inl rfl⟩
    case neg =>
      obtain ⟨e, j, p, he, link, smaller, hp, len, bound⟩ := inv.inserted c (by omega) below
      have jClear : j.toNat ≠ 2 ^ s.size.toNat := fun h => absurd (h ▸ hp) (inv.clearSlot ▸ nofun)
      have jStop : j.toNat ≠ 2 ^ s.size.toNat + 1 := fun h => absurd (h ▸ hp) (inv.stopSlot ▸ nofun)
      obtain ⟨q, p', hq, hp', plen, -⟩ := ih j.toNat smaller (by omega) jClear jStop
      obtain rfl := Option.some.inj (hp.symm.trans hp')
      have length : e.len.toNat = q.length + 1 := by rw [len, plen]
      have fuel : runOf s.table c j.toNat = some q :=
        runOf_of_length_le hq ((runOf_length_le hq).trans smaller)
      refine ⟨_, e, runOf_of_link he link fuel length, he, by simp [length], .inr ?_⟩
      rw [List.length_append, List.length_singleton]
      omega

theorem resolves_of_tableInv (cap : s.nent.toNat ≤ 4096) {c : Nat} (below : c < s.nent.toNat)
    (notClear : c ≠ 2 ^ s.size.toNat) (notStop : c ≠ 2 ^ s.size.toNat + 1) :
    ∃ r e, runOf s.table walkFuel c = some r ∧ lookup s.table c = some e ∧ e.len.toNat = r.length ∧
      r.length ≤ 4095 ∧ (r.length = 1 ∨ r.length + 2 ^ s.size.toNat ≤ c) := by
  obtain ⟨r, e, hr, he, len, bound⟩ := runOf_of_tableInv inv below notClear notStop
  have positive := Nat.two_pow_pos s.size.toNat
  have short : r.length ≤ 4095 := by omega
  exact ⟨r, e, runOf_of_length_le hr (short.trans (by decide)), he, len, short, bound⟩

/-- A code that has a run is no control code. -/
theorem not_control_of_runOf {f c : Nat} {r : List Byte} (hr : runOf s.table f c = some r) :
    c ≠ 2 ^ s.size.toNat ∧ c ≠ 2 ^ s.size.toNat + 1 := by
  obtain ⟨e, he, -⟩ := lookup_of_runOf hr
  exact ⟨fun h => absurd (h ▸ he) (inv.clearSlot ▸ nofun), fun h => absurd (h ▸ he) (inv.stopSlot ▸ nofun)⟩

/-- The previous run in front of an insertion (R30 item 5). -/
theorem previous_run (cap : s.nent.toNat ≤ 4096) (prev : s.hasPrev = true) :
    ∃ r e, runOf s.table walkFuel s.prevCode.toNat = some r ∧ lookup s.table s.prevCode.toNat = some e ∧
      e.len.toNat = r.length ∧ s.prevLen.toNat = r.length ∧ r.headD 0#8 = s.prevFirst ∧ r.length ≤ 4095 ∧
      (r.length = 1 ∨ r.length + 2 ^ s.size.toNat ≤ s.prevCode.toNat) := by
  obtain ⟨below, r, hr, prevLen, first⟩ := inv.previous prev
  obtain ⟨notClear, notStop⟩ := not_control_of_runOf inv hr
  obtain ⟨r', e, hr', he, len, short, bound⟩ := resolves_of_tableInv inv cap below notClear notStop
  obtain rfl := Option.some.inj (hr.symm.trans hr')
  exact ⟨r, e, hr, he, len, prevLen, by simp [List.headD_eq_head?_getD, first], short, bound⟩

end

/-- Settles O32: by induction on the code, an entry being linked to a smaller index. -/
theorem validCodesResolve : Obligations.ValidCodesResolve := by
  intro s c inv busy symbol below notClear notStop
  obtain ⟨r, e, hr, he, len, short, -⟩ :=
    resolves_of_tableInv (inv.decoding busy symbol) (inv.registers busy symbol).nent.2 below notClear notStop
  exact ⟨r, e, hr, he, len, short⟩

/-- The length of the entry an insertion writes (R102) does not wrap. -/
theorem newEntry_len_toNat {s : State} (h : s.prevLen.toNat ≤ 4095) :
    (newEntry s).len.toNat = s.prevLen.toNat + 1 := by
  rw [newEntry, BitVec.toNat_add, BitVec.toNat_ofNat]
  omega

/-- Settles O31: the new entry is linked to the previous code and its placeholder is the run's own first pixel. -/
theorem selfReferenceRun : Obligations.SelfReferenceRun := by
  intro s t r inv busy symbol prev notFull ins hr
  have registers := inv.registers busy symbol
  have table := inv.decoding busy symbol
  rcases insertPhase_cases s with ⟨-, -, -, hp⟩ | ⟨-, -, -, hp⟩ | ⟨still, -⟩
  case inl => rw [hp] at ins; cases ins
  case inr.inr => simp [prev, notFull] at still
  case inr.inl =>
    rw [hp] at ins
    cases ins
    obtain ⟨r', -, hr', -, -, prevLen, first, short, -⟩ := previous_run table registers.nent.2 prev
    obtain rfl := Option.some.inj (hr.symm.trans hr')
    have len : (newEntry s).len.toNat = r.length + 1 := by rw [newEntry_len_toNat (by omega), prevLen]
    have extended := lookup_store_of_unused (table.above _ le_rfl) (newEntry s)
    have fuel : runOf s.table 4095 s.prevCode.toNat = some r := runOf_of_length_le hr short
    rw [insertEntry_nent_toNat registers.nent.2, Nat.add_sub_cancel, insertEntry_table, first, walkFuel]
    exact runOf_of_link (lookup_store_same ..) rfl (runOf_of_extended extended fuel) len

end Sys2Proof.Machine
end

section
/-!
The width of the codes against the entry count (R30, R70, R104): how `bitlen` counts on, and what the growth, a clear
code and a data code make of the register invariant.
-/
namespace Sys2Proof

theorem bitlen_le_iff {v k : Nat} : bitlen v ≤ k ↔ v < 2 ^ k := by
  unfold bitlen
  split
  case isTrue h => simp [h]
  case isFalse h => rw [Nat.add_one_le_iff, Nat.log2_lt h]

theorem bitlen_mono {v w : Nat} (h : v ≤ w) : bitlen v ≤ bitlen w :=
  bitlen_le_iff.2 (h.trans_lt (lt_two_pow_bitlen w))

theorem bitlen_two_pow (k : Nat) : bitlen (2 ^ k) = k + 1 := by
  rw [bitlen, if_neg (Nat.two_pow_pos k).ne', Nat.log2_two_pow]

theorem bitlen_of_succ_eq_two_pow {v k : Nat} (h : v + 1 = 2 ^ k) : bitlen v = k := by
  apply Nat.le_antisymm
  · exact bitlen_le_iff.2 (by omega)
  · by_contra short
    have : v < 2 ^ (k - 1) := bitlen_le_iff.1 (by omega)
    have : 2 ^ k = 2 ^ (k - 1) * 2 := by rw [← pow_succ]; congr 1; omega
    have := Nat.two_pow_pos (k - 1)
    omega

/-- The length of a number counts on at the powers of two alone. -/
theorem bitlen_succ_of_not_isPow2 {v : Nat} (h : isPow2 (v + 1) = false) : bitlen (v + 1) = bitlen v := by
  apply Nat.le_antisymm _ (bitlen_mono v.le_succ)
  have below := lt_two_pow_bitlen v
  have other : v + 1 ≠ 2 ^ bitlen v := fun hv => by
    rw [isPow2_iff.2 ⟨_, hv⟩] at h
    cases h
  exact bitlen_le_iff.2 (by omega)

namespace Machine

/-! ## The growth behind an insertion -/

theorem growWidth_of_rest {s : State} (h : s.flight = Flight.rest) : growWidth s = s := by
  rw [growWidth, h]
  rfl

theorem growAt_eq (n : BitVec 13) (w : BitVec 4) :
    growAt n w = (!decide (n.toNat = 4096) && isPow2 n.toNat && decide (w.toNat < 12)) := rfl

/-- With the pending growth the width is that of the next code (R104): it grows where the entry count needs a bit
more. -/
theorem width_toNat_of_growAt {n : Nat} {count : BitVec 13} {w : BitVec 4} {size : Nat} (counted : count.toNat = n + 1)
    (below : n + 1 < 4096) (least : 2 ^ size + 1 ≤ n) (width : w.toNat = max (size + 1) (bitlen n)) :
    (if growAt count w then w + 1#4 else w).toNat = max (size + 1) (bitlen (n + 1)) := by
  rw [growAt_eq, counted, decide_eq_false (by omega), Bool.not_false, Bool.true_and]
  cases pow : isPow2 (n + 1)
  case false =>
    rw [bitlen_succ_of_not_isPow2 pow]
    exact width
  case true =>
    obtain ⟨k, hk⟩ := isPow2_iff.1 pow
    have atLimit : k < 12 := (Nat.pow_lt_pow_iff_right (a := 2) (by decide)).1 (by omega)
    have large : size < k := (Nat.pow_lt_pow_iff_right (a := 2) (by decide)).1 (by omega)
    rw [bitlen_of_succ_eq_two_pow hk] at width
    have : w.toNat = k := by omega
    rw [hk, bitlen_two_pow, Bool.true_and, decide_eq_true (by omega), if_pos rfl, BitVec.toNat_add, BitVec.toNat_ofNat]
    omega

/-- The width right behind the seeding or a clear code is that of the first entry count, frozen or growing. -/
theorem bitlen_first_count {size : Nat} (least : 2 ≤ size) :
    max (size + 1) (bitlen (2 ^ size + 2 - 1)) = size + 1 ∧ max (size + 1) (bitlen (2 ^ size + 2)) = size + 1 := by
  have : 2 ^ 2 ≤ 2 ^ size := Nat.pow_le_pow_right (by decide) least
  have fits : bitlen (2 ^ size + 2) ≤ size + 1 := bitlen_le_iff.2 (by rw [pow_succ]; omega)
  have fits' : bitlen (2 ^ size + 2 - 1) ≤ size + 1 := (bitlen_mono (Nat.sub_le _ _)).trans fits
  omega

/-! ## The register invariant through the phases of a step -/

/-- The registers that the register invariant speaks of. -/
def decoderRegisters (s : State) : BitVec 16 × BitVec 4 × BitVec 13 × Params × Bool × Bool × BitVec 4 :=
  (s.w, s.size, s.nent, s.params, s.full, s.hasPrev, s.width)

theorem registerInv_congr {s t : State} (inv : RegisterInv s) (same : decoderRegisters t = decoderRegisters s) :
    RegisterInv t := by
  simp only [decoderRegisters, Prod.mk.injEq] at same
  obtain ⟨hw, hsize, hnent, hparams, hfull, hprev, hwidth⟩ := same
  obtain ⟨h1, h2, h3, h4, h5, h6, h7, h8, h9⟩ := inv
  constructor <;> simp only [hw, hsize, hnent, hparams, hfull, hprev, hwidth] <;> assumption

/-- What the seeding and a clear code leave (R80, R106). -/
theorem registerInv_freshRegisters {s : State} {n : Nat} (hw : s.w ≠ 0#16) (params : s.params.wf = true)
    (least : 2 ≤ n) (greatest : n ≤ 8) (size : s.size.toNat = n) : RegisterInv (freshRegisters n s) := by
  have width := freshRegisters_width_toNat s greatest
  have nent := freshRegisters_nent_toNat s greatest
  have small : 2 ^ n ≤ 2 ^ 8 := Nat.pow_le_pow_right (by decide) greatest
  obtain ⟨depth, -⟩ := of_decide_eq_true params
  obtain ⟨frozen, -⟩ := bitlen_first_count least
  constructor
  case subWidth => exact hw
  case full => exact ⟨nofun, fun cap => by omega⟩
  case fresh => exact fun _ => by rw [nent, freshRegisters_size, size]
  case growingWidth => exact nofun
  case frozenWidth => intro _; rw [width, freshRegisters_size, size, nent, frozen]
  all_goals simp only [freshRegisters_size, freshRegisters_params, size, nent, width]; omega

section
variable {s : State} (inv : RegisterInv s) (prev : s.hasPrev = true) (notFull : s.full = false)
include inv

theorem nent_lt_cap (notFull : s.full = false) : s.nent.toNat < 4096 :=
  Nat.lt_of_le_of_ne inv.nent.2 fun cap => absurd (inv.full.2 cap) (ne_true_of_eq_false notFull)

theorem insertEntry_full_iff : (insertEntry s).full = true ↔ s.nent.toNat + 1 = 4096 := by
  rw [insertEntry_full, fullAt_eq_decide, decide_eq_true_iff]
  exact Eq.congr_left (insertEntry_nent_toNat inv.nent.2)

include prev notFull

/-- The width behind an insertion (R102, R104): that of the new entry count, or the frozen one at the cap. -/
theorem grown_insertEntry_width_toNat :
    (growWidth (insertEntry s)).width.toNat =
      max (s.size.toNat + 1) (bitlen (if s.nent.toNat + 1 = 4096 then s.nent.toNat else s.nent.toNat + 1)) := by
  have count : (s.nent + 1#13).toNat = s.nent.toNat + 1 := insertEntry_nent_toNat inv.nent.2
  have below := nent_lt_cap inv notFull
  have width := inv.growingWidth prev notFull
  have least := inv.nent.1
  have grows : (growWidth (insertEntry s)).width = if growAt (s.nent + 1#13) s.width then s.width + 1#4 else s.width :=
    growWidth_width (insertEntry s)
  rw [grows]
  by_cases cap : s.nent.toNat + 1 = 4096
  case pos => rw [growAt_eq, count, decide_eq_true cap, if_pos cap]; exact width
  case neg => rw [if_neg cap]; exact width_toNat_of_growAt count (by omega) (by omega) width

theorem registerInv_insertEntry (room : s.nent.toNat < s.params.tableDepth) :
    RegisterInv (growWidth (insertEntry s)) := by
  have below := nent_lt_cap inv notFull
  have full : (growWidth (insertEntry s)).full = true ↔ s.nent.toNat + 1 = 4096 := by
    rw [growWidth_full, insertEntry_full_iff inv]
  have hasPrev : (growWidth (insertEntry s)).hasPrev = true := by rw [growWidth_hasPrev, insertEntry_hasPrev, prev]
  have nent : (growWidth (insertEntry s)).nent.toNat = s.nent.toNat + 1 := by
    rw [growWidth_nent, insertEntry_nent_toNat inv.nent.2]
  have size : (growWidth (insertEntry s)).size = s.size := by rw [growWidth_size, insertEntry_size]
  have width := grown_insertEntry_width_toNat inv prev notFull
  have least := inv.nent.1
  constructor
  case subWidth => rw [growWidth_w, insertEntry_w]; exact inv.subWidth
  case size => rw [size]; exact inv.size
  case nent => rw [nent, size]; omega
  case depth => rw [nent, growWidth_params, insertEntry_params]; exact room
  case full => rw [full, nent]
  case fresh => rw [hasPrev]; nofun
  case frozenWidth =>
    rw [hasPrev, full, nent, size, width]
    intro frozen
    rw [if_pos (frozen.resolve_left nofun), Nat.add_sub_cancel]
  case growingWidth =>
    intro _ growing
    rw [nent, size, width, if_neg fun cap => absurd (full.2 cap) (ne_true_of_eq_false growing)]
  case widthLimit =>
    have bits : (if s.nent.toNat + 1 = 4096 then s.nent.toNat else s.nent.toNat + 1) < 2 ^ 12 := by split <;> omega
    have short := bitlen_le_iff.2 bits
    have small := inv.size.2
    rw [width]
    omega

end

/-- The insertion phase and the growth behind it keep the register invariant (R102, R104). -/
theorem registerInv_insertPhase {s t : State} (inv : RegisterInv s) (h : insertPhase s = .go () t) :
    RegisterInv (growWidth t) := by
  rcases insertPhase_cases s with ⟨-, -, -, hp⟩ | ⟨prev, notFull, room, hp⟩ | ⟨-, hp⟩ <;> rw [hp] at h <;> cases h
  · exact registerInv_insertEntry inv prev notFull room
  · rw [growWidth_of_rest rfl]
    exact registerInv_congr inv rfl

/-- A data code sets `HASPREV` (R129): the width the first data code was read at is that of the growing phase. -/
theorem registerInv_remembered {s t : State} (inv : RegisterInv s)
    (same : decoderRegisters t = decoderRegisters { s with hasPrev := true }) : RegisterInv t := by
  refine registerInv_congr (s := { s with hasPrev := true }) ?_ same
  obtain ⟨subWidth, size, nent, depth, full, fresh, frozenWidth, growingWidth, widthLimit⟩ := inv
  refine ⟨subWidth, size, nent, depth, full, nofun, fun h => ?_, fun _ notFull => ?_, widthLimit⟩
  · exact frozenWidth (.inr (h.resolve_left nofun))
  · cases prev : s.hasPrev
    case true => exact growingWidth prev notFull
    case false =>
      obtain ⟨frozen, growing⟩ := bitlen_first_count size.1
      have width := frozenWidth (.inl prev)
      rw [fresh prev, frozen] at width
      exact width.trans (growing.symm.trans (congrArg (fun n => max _ (bitlen n)) (fresh prev).symm))

end Machine
end Sys2Proof
end

section
/-!
The pixels of a data code (R17, R45, R127, R156): addresses and pixel numbers, the two ends of a code that has a run,
and O22, O23, O25.
-/
namespace Sys2Proof.Machine

/-! ## Addresses and pixel numbers -/

theorem toNat_pos {n : Nat} {v : BitVec n} (h : v ≠ 0#n) : 0 < v.toNat :=
  Nat.pos_of_ne_zero fun zero => h (BitVec.eq_of_toNat_eq (by simpa using zero))

/-- A sub-image no wider than the canvas has one pixel at an address (R45). -/
theorem fbAddr_injective {s : State} (hw : s.w ≠ 0#16) (narrow : s.w.toNat ≤ s.cw.toNat) {p q : Nat}
    (h : fbAddr s p = fbAddr s q) : p = q := by
  have positive : 0 < s.w.toNat := toNat_pos hw
  have hp := Nat.mod_lt p positive
  have hq := Nat.mod_lt q positive
  unfold fbAddr at h
  have row : s.y.toNat + p / s.w.toNat = s.y.toNat + q / s.w.toNat := by
    rcases Nat.lt_trichotomy (s.y.toNat + p / s.w.toNat) (s.y.toNat + q / s.w.toNat) with less | same | more
    · have := Nat.mul_le_mul_right s.cw.toNat less
      rw [Nat.succ_mul] at this
      omega
    · exact same
    · have := Nat.mul_le_mul_right s.cw.toNat more
      rw [Nat.succ_mul] at this
      omega
  rw [row] at h
  rw [← Nat.div_add_mod p s.w.toNat, ← Nat.div_add_mod q s.w.toNat]
  have column : p % s.w.toNat = q % s.w.toNat := by omega
  rw [column, Nat.add_left_cancel row]

/-- The pixel numbers with an address inside the buffer are those of the rows from `Y` down to `CH` (R27, R45). -/
theorem lt_runPixels_of_inside {s : State} (hw : s.w ≠ 0#16) {p : Nat} (inside : fbAddr s p < frameBytes s) :
    p < runPixels s := by
  have positive : 0 < s.w.toNat := toNat_pos hw
  have row : s.y.toNat + p / s.w.toNat < s.ch.toNat := by
    by_contra below
    have := Nat.mul_le_mul_right s.cw.toNat (Nat.not_lt.1 below)
    rw [Nat.mul_comm] at this
    unfold fbAddr frameBytes at inside
    omega
  exact (Nat.div_lt_iff_lt_mul positive).1 (Nat.lt_sub_of_add_lt (Nat.add_comm _ _ ▸ row))

theorem runPixels_le (s : State) : runPixels s ≤ 65535 * 65535 :=
  Nat.mul_le_mul ((Nat.sub_le _ _).trans (Nat.le_of_lt_succ s.ch.isLt)) (Nat.le_of_lt_succ s.w.isLt)

theorem paint_cons (s : State) (p : Nat) (v : Byte) (r : List Byte) (fb : List Host.Cell) :
    paint s p (v :: r) fb = store (paint s (p + 1) r fb) (fbAddr s p) v := rfl

/-- Settles O22: the later pixels of the run are written first, and none of them has the address of this one. -/
theorem runPixelsPlaced : Obligations.RunPixelsPlaced := by
  intro s p r fb k hw narrow hk
  induction r generalizing p k with
  | nil => cases hk
  | cons v r ih =>
    rw [paint_cons]
    cases k with
    | zero => exact lookup_store_same ..
    | succ k =>
      have other : fbAddr s (p + (k + 1)) ≠ fbAddr s p := fun h => by
        have := fbAddr_injective hw narrow h
        omega
      rw [lookup_store_other _ _ other, Nat.add_comm k 1, ← Nat.add_assoc]
      exact (ih (p + 1) k (Nat.lt_of_succ_lt_succ hk)).trans (by simp [Nat.add_comm 1])

/-! ## The end of a data code that has a run -/

theorem exists_last_not {P : Nat → Prop} {n : Nat} (h : ¬∀ k, k < n → P k) :
    ∃ k, k < n ∧ ¬P k ∧ ∀ j, k < j → j < n → P j := by
  induction n with
  | zero => exact absurd (fun _ hk => absurd hk (Nat.not_lt_zero _)) h
  | succ n ih =>
    by_cases last : P n
    case neg => exact ⟨n, n.lt_succ_self, last, fun j above below => by omega⟩
    case pos =>
      obtain ⟨k, hk, outside, inside⟩ := ih fun all => h fun k hk =>
        (Nat.lt_succ_iff_lt_or_eq.1 hk).elim (all k) (· ▸ last)
      refine ⟨k, hk.trans n.lt_succ_self, outside, fun j above below => ?_⟩
      exact (Nat.lt_succ_iff_lt_or_eq.1 below).elim (inside j above) (· ▸ last)

/-- The state of a run that leaves the buffer at its pixel `k` (R156). -/
def runCut (s : State) (r : List Byte) (k : Nat) : State :=
  faulted .fbRange (s.off.toNat + k)
    (painted (runWrites s (s.off.toNat + k + 1) (r.drop (k + 1))) (growWidth s))

/-- The state of a run that is inside the buffer (R120, R127). -/
def runDone (c : Code) (s : State) (r : List Byte) : State :=
  dataDone c (BitVec.ofNat 13 r.length) (r.headD 0#8) (painted (runWrites s s.off.toNat r) (growWidth s))

/-- A data code that has a run completes, or it is cut at the highest pixel outside the buffer (R127, R156). -/
theorem dataCode_of_resolved {c : Code} {s : State} {r : List Byte} (hr : runOf s.table walkFuel c.toNat = some r)
    (hw : s.w ≠ 0#16) :
    dataCode c s = .next (runDone c s r) ∨ ∃ k, k < r.length ∧ dataCode c s = .next (runCut s r k) := by
  by_cases inside : pixelsInside s s.off.toNat r.length = true
  case pos => exact .inl (dataCode_of_runOf hr hw inside)
  case neg =>
    obtain ⟨k, hk, outside, above⟩ := exists_last_not fun all => inside (pixelsInside_iff.2 all)
    refine .inr ⟨k, hk, ?_⟩
    rw [runCut, growWidth_eq]
    exact dataCodeOutOfRange (.ref c) c s r k (.inr (.inl rfl)) hr hw hk (Nat.not_lt.1 outside) above

/-! ## What a data code leaves unchanged -/

/-- The addresses of a run's writes are those of its pixel numbers. -/
theorem lookup_paint_of_other {s : State} {p a : Nat} {r : List Byte} (fb : List Host.Cell)
    (other : ∀ k, k < r.length → a ≠ fbAddr s (p + k)) : lookup (paint s p r fb) a = lookup fb a := by
  induction r generalizing p with
  | nil => rfl
  | cons v r ih =>
    have first : a ≠ fbAddr s p := other 0 (Nat.succ_pos _)
    rw [paint_cons, lookup_store_other _ _ first]
    exact ih fun k hk => by
      rw [Nat.add_assoc, Nat.add_comm 1 k]
      exact other (k + 1) (Nat.succ_lt_succ hk)

/-- Without a sub-image width no data code goes on (R45; log 8). -/
theorem dataCode_ne_next_of_zeroWidth {c : Code} {s t : State} {r : List Byte}
    (hr : runOf s.table walkFuel c.toNat = some r) (hw : s.w = 0#16) : dataCode c s ≠ .next t := by
  obtain ⟨e, he, len⟩ := lookup_of_runOf hr
  have nonempty : e.len ≠ 0#13 := fun h => runOf_ne_nil hr (List.length_eq_zero_iff.1 (by rw [← len, h]; rfl))
  have stops : writePixel ((growWidth s).off.toNat + e.len.toNat - 1) e.suffix (growWidth s) =
      .halt (.fault .zeroWidth) := writePixel_halt.2 (.inl ⟨by simpa using hw, rfl⟩)
  rw [dataCode_of_lookup he, walkFuel, walk, if_neg nonempty, stops]
  nofun

/-- Settles O23: a run that is cut has made the writes above the cut, a whole run all of them. -/
theorem dataCodeFrame : Obligations.DataCodeFrame := by
  intro i c s t r row hr h
  rw [exec_of_isDataRow s row] at h
  by_cases hw : s.w = 0#16
  case pos => exact absurd h (dataCode_ne_next_of_zeroWidth hr hw)
  case neg =>
    rcases dataCode_of_resolved hr hw with done | ⟨k, hk, cut⟩
    case inl =>
      rw [done] at h
      cases h
      rw [runDone, dataDone_eq]
      refine ⟨fun a other => ?_, rfl, rfl, 0, rfl⟩
      exact congrArg (fun m => if a < frameBytes s then m else none) (lookup_paint_of_other s.fb other)
    case inr =>
      rw [cut] at h
      cases h
      rw [runCut, growWidth_eq]
      refine ⟨fun a other => ?_, rfl, rfl, k + 1, rfl⟩
      refine congrArg (fun m => if a < frameBytes s then m else none) (lookup_paint_of_other s.fb fun j hj => ?_)
      rw [List.length_drop] at hj
      rw [Nat.add_assoc _ k, Nat.add_assoc]
      exact other _ (by omega)

/-! ## The offset -/

/-- A walk that goes on has written the last pixel of its run (R127). -/
theorem walk_go_inside {f : Nat} {e : Entry} {s t : State} {v : Byte} (h : walk f e s = .go v t) :
    e.len ≠ 0#13 ∧ s.w ≠ 0#16 ∧ fbAddr s (s.off.toNat + e.len.toNat - 1) < frameBytes s := by
  cases f with
  | zero => cases h
  | succ f =>
    rw [walk] at h
    split at h
    case isTrue => cases h
    case isFalse nonempty =>
      obtain ⟨_, u, wrote, -⟩ := andThen_go.1 h
      obtain ⟨hw, inside, -⟩ := writePixel_go.1 wrote
      exact ⟨nonempty, hw, inside⟩

/-- A data code that goes on has an entry, and has written the last pixel of its run (R120, R127). -/
theorem dataCode_next_inside {c : Code} {s t : State} (h : dataCode c s = .next t) (still : t.state ≠ .fault) :
    ∃ e, lookup s.table c.toNat = some e ∧ t.off = s.off + e.len.setWidth 32 ∧ e.len ≠ 0#13 ∧ s.w ≠ 0#16 ∧
      fbAddr s (s.off.toNat + e.len.toNat - 1) < frameBytes s := by
  cases he : lookup s.table c.toNat with
  | none =>
    have refused : readEntry c.toNat (growWidth s) = .halt (.refused .unspecifiedEntry) :=
      readEntry_halt.2 ⟨by rw [growWidth_table, he], rfl⟩
    rw [dataCode, emit, refused] at h
    cases h
  | some e =>
    rw [dataCode_of_lookup he] at h
    rcases walk_cases walkFuel e (growWidth s) with ⟨v, ws, walked⟩ | ⟨p, ws, walked⟩ | ⟨_, walked⟩ | ⟨_, walked⟩ <;>
      rw [walked] at h <;> cases h
    · obtain ⟨nonempty, hw, inside⟩ := walk_go_inside walked
      rw [growWidth_w] at hw
      rw [fbAddr_growWidth, frameBytes_growWidth, growWidth_off] at inside
      refine ⟨e, rfl, ?_, nonempty, hw, inside⟩
      rw [dataDone_eq]
    · exact absurd rfl still

/-- Settles O25: the last pixel of the run has an address inside the buffer, which bounds its number. -/
theorem offsetNeverWraps : Obligations.OffsetNeverWraps := by
  intro i c s t row busy h still
  rw [exec_of_isDataRow s row] at h
  obtain ⟨e, he, off, nonempty, hw, inside⟩ := dataCode_next_inside h (still ▸ nofun)
  have number := (lt_runPixels_of_inside hw inside).trans_le (runPixels_le s)
  have positive := toNat_pos nonempty
  have sum : t.off.toNat = s.off.toNat + e.len.toNat := by
    rw [off, BitVec.toNat_add, BitVec.toNat_setWidth_of_le (by decide)]
    exact Nat.mod_eq_of_lt (by omega)
  exact ⟨e, he, sum, by omega⟩

end Sys2Proof.Machine
end

section
/-!
The invariant of a decode (R29, R30, R107): the table through the phases of a step, every step from a state that meets
the invariant, and O44, O45, O47, O52.
-/
namespace Sys2Proof.Machine

/-! ## Tables that differ in suffixes -/

/-- Two tables with the same entries but for the suffixes of linked ones (R128). -/
structure Relabelled (t t' : List (Nat × Entry)) : Prop where
  absent : ∀ i, lookup t i = none → lookup t' i = none
  present : ∀ i e, lookup t i = some e → ∃ v, lookup t' i = some { e with suffix := v } ∧ (e.pfx = none → v = e.suffix)

theorem relabelled_refl (t : List (Nat × Entry)) : Relabelled t t :=
  ⟨fun _ h => h, fun _ e h => ⟨e.suffix, h, fun _ => rfl⟩⟩

/-- A root keeps its run, a linked entry the length of its run and its first pixel. -/
theorem runOf_of_relabelled {t t' : List (Nat × Entry)} (rel : Relabelled t t') {f i : Nat} {r : List Byte}
    (h : runOf t f i = some r) :
    ∃ r', runOf t' f i = some r' ∧ r'.length = r.length ∧ r'.head? = r.head? := by
  induction f generalizing i r with
  | zero => cases h
  | succ f ih =>
    obtain ⟨e, q, he, rfl, len, chain⟩ := runOf_succ h
    obtain ⟨v, he', keeps⟩ := rel.present i e he
    rcases chain with ⟨root, rfl⟩ | ⟨j, link, hq⟩
    · exact ⟨_, runOf_of_no_link he' root len, rfl, by simp [keeps root]⟩
    · obtain ⟨q', hq', length, first⟩ := ih hq
      refine ⟨_, runOf_of_link he' link hq' (length ▸ len), by simp [length], ?_⟩
      obtain ⟨b, q, rfl⟩ := List.exists_cons_of_ne_nil (runOf_ne_nil hq)
      obtain ⟨b', q', rfl⟩ := List.exists_cons_of_ne_nil (runOf_ne_nil hq')
      exact first

/-! ## The table invariant through the phases of a step -/

theorem tableInv_of_relabelled {s t : State} (inv : TableInv s) (rel : Relabelled s.table t.table)
    (size : t.size = s.size) (nent : t.nent = s.nent)
    (previous : t.hasPrev = true → t.prevCode.toNat < t.nent.toNat ∧
      ∃ r, runOf t.table walkFuel t.prevCode.toNat = some r ∧ t.prevLen.toNat = r.length ∧
        r.head? = some t.prevFirst) : TableInv t := by
  refine ⟨?roots, ?clearSlot, ?stopSlot, ?above, ?inserted, previous⟩
  case roots =>
    intro k hk
    rw [size] at hk
    obtain ⟨v, hv, keeps⟩ := rel.present k _ (inv.roots k hk)
    rw [hv, keeps rfl]
  case clearSlot => exact size ▸ rel.absent _ inv.clearSlot
  case stopSlot => exact size ▸ rel.absent _ inv.stopSlot
  case above => exact nent ▸ fun i hi => rel.absent i (inv.above i hi)
  case inserted =>
    intro i least below
    rw [size] at least
    rw [nent] at below
    obtain ⟨e, j, p, he, link, smaller, hp, len, bound⟩ := inv.inserted i least below
    obtain ⟨v, he', -⟩ := rel.present i e he
    obtain ⟨u, hp', -⟩ := rel.present _ p hp
    exact ⟨_, j, _, he', link, smaller, hp', len, size ▸ bound⟩

/-- A table of root entries alone, in front of the first data code (R100, R106). -/
theorem tableInv_of_roots {s : State} {n : Nat} (size : s.size.toNat = n) (nent : s.nent.toNat = 2 ^ n + 2)
    (noPrev : s.hasPrev = false)
    (roots : ∀ k, k < 2 ^ n → lookup s.table k = some { len := 1#13, pfx := none, suffix := BitVec.ofNat 8 k })
    (others : ∀ i, 2 ^ n ≤ i → lookup s.table i = none) : TableInv s := by
  subst size
  exact ⟨roots, others _ le_rfl, others _ (Nat.le_succ _), fun i above => others i (by omega),
    fun i least below => absurd below (by omega), fun prev => absurd prev (noPrev ▸ nofun)⟩

theorem tableInv_seeded {n : Nat} (s : State) (greatest : n ≤ 8) : TableInv (seeded n s) :=
  tableInv_of_roots (seeded_size_toNat s greatest) (freshRegisters_nent_toNat s greatest) rfl
    (fun _ => lookup_rootEntries_of_lt) (fun _ => lookup_rootEntries_of_ge)

theorem tableInv_clearReset {s : State} (inv : TableInv s) (greatest : s.size.toNat ≤ 8) :
    TableInv (clearReset s.size.toNat s) := by
  refine tableInv_of_roots (n := s.size.toNat) rfl (freshRegisters_nent_toNat s greatest) rfl (fun k hk => ?_)
    (fun i hi => ?_)
  · rw [clearReset_table, lookup_entriesBelow, if_pos hk, inv.roots k hk]
  · rw [clearReset_table, lookup_entriesBelow, if_neg (Nat.not_lt.2 hi)]

/-- The insertion phase keeps the table invariant: the new entry is linked to the previous code (R102, R107). -/
theorem tableInv_insertPhase {s t : State} (registers : RegisterInv s) (inv : TableInv s)
    (h : insertPhase s = .go () t) : TableInv t := by
  rcases insertPhase_cases s with ⟨-, -, -, hp⟩ | ⟨prev, -, -, hp⟩ | ⟨-, hp⟩ <;> rw [hp] at h <;> cases h
  case inr.inr => exact tableInv_of_relabelled inv (relabelled_refl _) rfl rfl inv.previous
  case inr.inl =>
    obtain ⟨least, cap⟩ := registers.nent
    have nent := insertEntry_nent_toNat cap
    have extended := lookup_store_of_unused (inv.above _ le_rfl) (newEntry s)
    have other (i : Nat) (hi : i ≠ s.nent.toNat) : lookup (insertEntry s).table i = lookup s.table i :=
      lookup_store_other _ _ hi
    obtain ⟨r, p, hr, hp, plen, prevLen, first, short, bound⟩ := previous_run inv cap prev
    obtain ⟨below, run⟩ := inv.previous prev
    have positive := Nat.two_pow_pos s.size.toNat
    refine ⟨?roots, ?clearSlot, ?stopSlot, ?above, ?inserted, ?previous⟩
    case roots => exact fun k hk => extended k _ (inv.roots k hk)
    case clearSlot => exact (other _ (by rw [insertEntry_size]; omega)).trans inv.clearSlot
    case stopSlot => exact (other _ (by rw [insertEntry_size]; omega)).trans inv.stopSlot
    case above => exact fun i hi => (other i (by omega)).trans (inv.above i (by omega))
    case inserted =>
      intro i hi hn
      rcases Nat.lt_or_eq_of_le (Nat.le_of_lt_succ (nent ▸ hn)) with old | rfl
      case inl =>
        obtain ⟨e, j, q, he, link, smaller, hq, len, room⟩ := inv.inserted i hi old
        exact ⟨e, j, q, extended _ _ he, link, smaller, extended _ _ hq, len, room⟩
      case inr =>
        have len := newEntry_len_toNat (s := s) (by omega)
        refine ⟨newEntry s, s.prevCode, p, lookup_store_same .., rfl, below, extended _ _ hp, by omega, ?_⟩
        rw [insertEntry_size]
        omega
    case previous =>
      intro _
      obtain ⟨r, hr, prevLen, first⟩ := run
      exact ⟨by rw [nent]; exact Nat.lt_succ_of_lt below, r, runOf_of_extended extended hr, prevLen, first⟩

/-- The repair writes the suffix of an entry that has a link. -/
theorem repairedTable_relabelled {s : State} (inv : TableInv s) (least : 2 ^ s.size.toNat + 2 ≤ s.nent.toNat)
    (v : Byte) : Relabelled s.table (repairedTable s v) := by
  constructor
  · intro i absent
    rw [lookup_repairedTable, absent]
    split <;> rfl
  · intro i e he
    rw [lookup_repairedTable]
    split
    case isFalse => exact ⟨e.suffix, he, fun _ => rfl⟩
    case isTrue newest =>
      refine ⟨v, by rw [he]; rfl, fun root => ?_⟩
      have notStop : i ≠ 2 ^ s.size.toNat + 1 := fun h => absurd (h ▸ he) (inv.stopSlot ▸ nofun)
      have positive := Nat.two_pow_pos s.size.toNat
      obtain ⟨e', j, -, he', link, -⟩ := inv.inserted i (by omega) (by omega)
      obtain rfl := Option.some.inj (he.symm.trans he')
      rw [root] at link
      cases link

/-! ## The invariant by the block's state -/

theorem inv_at_rest {t : State} (atRest : t.state ≠ .busy) (params : t.params.wf = true)
    (flight : t.flight = Flight.rest) (frameForm : Memory.wf t.fb = true) (noTable : t.table = [])
    (cause : t.cause.isSome = true ↔ t.state = .fault) (info : t.state ≠ .fault → t.info = 0#32) : Inv t where
  params := params
  rest := flight
  frameForm := frameForm
  tableForm := noTable ▸ rfl
  cause := cause
  info := info
  noTable := fun _ => noTable
  noTrail := fun busy => absurd busy atRest
  starting := fun busy => absurd busy atRest
  registers := fun busy => absurd busy atRest
  decoding := fun busy => absurd busy atRest

theorem inv_faulted {c : Cause} {n : Nat} {s : State} (params : s.params.wf = true)
    (frameForm : Memory.wf s.fb = true) : Inv (faulted c n s) :=
  inv_at_rest nofun params rfl frameForm rfl ⟨fun _ => rfl, fun _ => rfl⟩ fun h => absurd rfl h

theorem inv_hardwareReset {s : State} (params : s.params.wf = true) (frameForm : Memory.wf s.fb = true) :
    Inv (hardwareReset s) :=
  inv_at_rest nofun params rfl (frameAfterReset_wf frameForm) rfl ⟨nofun, nofun⟩ fun _ => rfl

/-- The invariant says nothing of the script and of what the host has read. -/
theorem inv_of_host {s : State} (inv : Inv s) (e : List EnvEvent) (d : Option Word) :
    Inv { s with env := e, hostData := d } where
  params := inv.params
  rest := inv.rest
  frameForm := inv.frameForm
  tableForm := inv.tableForm
  cause := inv.cause
  info := inv.info
  noTable := inv.noTable
  noTrail := inv.noTrail
  starting := fun busy init => by
    obtain ⟨h1, h2, h3, h4, h5, h6, h7, h8, h9, h10, h11, h12, h13, h14⟩ := inv.starting busy init
    exact ⟨h1, h2, h3, h4, h5, h6, h7, h8, h9, h10, h11, h12, h13, h14⟩
  registers := fun busy symbol => registerInv_congr (inv.registers busy symbol) rfl
  decoding := fun busy symbol => by
    have table := inv.decoding busy symbol
    exact tableInv_of_relabelled table (relabelled_refl _) rfl rfl table.previous

/-- Settles O44: the registers of R29's first column, and memories with nothing listed. -/
theorem resetMeetsInvariant : Obligations.ResetMeetsInvariant :=
  inv_at_rest nofun rfl rfl rfl rfl ⟨nofun, nofun⟩ fun _ => rfl

theorem cause_of_inv {s : State} (inv : Inv s) (busy : s.state = .busy) : s.cause = none := by
  rw [← Option.not_isSome_iff_eq_none, inv.cause, busy]
  nofun

/-- What holds in a `SYMBOL` step whose code has been read, its growth still pending (R104, R120). -/
structure Reading (u : State) : Prop where
  busy : u.state = .busy
  symbol : u.phase = .symbol
  noCause : u.cause = none
  noInfo : u.info = 0#32
  noTrail : u.trail = false
  params : u.params.wf = true
  frameForm : Memory.wf u.fb = true
  tableForm : Memory.wf u.table = true
  registers : RegisterInv (growWidth u)
  table : TableInv u

theorem reading_of_codeRead {s u : State} {c : Nat} (inv : Inv s) (busy : s.state = .busy) (symbol : s.phase = .symbol)
    (read : codeRead s c u) : Reading u := by
  have done := performed_codeRead read
  have tableForm := done.tableForm inv.tableForm
  obtain ⟨t, ins, moved, -⟩ := codeRead_moved read
  have registers := registerInv_insertPhase (inv.registers busy symbol) ins
  have table := tableInv_insertPhase (inv.registers busy symbol) (inv.decoding busy symbol) ins
  have same : t.state = s.state ∧ t.phase = s.phase ∧ t.cause = s.cause ∧ t.info = s.info ∧ t.trail = s.trail := by
    rcases insertPhase_cases s with ⟨-, -, -, hp⟩ | ⟨-, -, -, hp⟩ | ⟨-, hp⟩ <;> rw [hp] at ins <;> cases ins <;>
      exact ⟨rfl, rfl, rfl, rfl, rfl⟩
  obtain ⟨hstate, hphase, hcause, hinfo, htrail⟩ := same
  refine ⟨?_, ?_, ?_, ?_, ?_, done.params ▸ inv.params, done.frame ▸ inv.frameForm, tableForm, ?_, ?_⟩
  · rw [moved]; exact hstate.trans busy
  · rw [moved]; exact hphase.trans symbol
  · rw [moved]; exact hcause.trans (cause_of_inv inv busy)
  · rw [moved]; exact hinfo.trans (inv.info (busy ▸ nofun))
  · rw [moved]; exact htrail.trans (inv.noTrail busy)
  · rw [growWidth_eq] at registers ⊢
    rw [moved]
    exact registerInv_congr registers rfl
  · rw [moved]
    exact tableInv_of_relabelled table (relabelled_refl _) rfl rfl table.previous

section
variable {u : State} (mid : Reading u)
include mid

theorem Reading.subWidth : u.w ≠ 0#16 := growWidth_w u ▸ mid.registers.subWidth

theorem Reading.size : 2 ≤ u.size.toNat ∧ u.size.toNat ≤ 8 := growWidth_size u ▸ mid.registers.size

theorem Reading.nent : 2 ^ u.size.toNat + 2 ≤ u.nent.toNat ∧ u.nent.toNat ≤ 4096 :=
  growWidth_size u ▸ growWidth_nent u ▸ mid.registers.nent

/-- The registers and the table that a clear or a data code leaves meet the invariant of the next step. -/
theorem Reading.inv {t : State} (busy : t.state = u.state) (symbol : t.phase = u.phase) (cause : t.cause = u.cause)
    (info : t.info = u.info) (trail : t.trail = u.trail) (params : t.params = u.params)
    (flight : t.flight = Flight.rest) (frameForm : Memory.wf t.fb = true) (tableForm : Memory.wf t.table = true)
    (registers : RegisterInv t) (table : TableInv t) : Inv t := by
  have isBusy := busy.trans mid.busy
  have isSymbol := symbol.trans mid.symbol
  refine ⟨params ▸ mid.params, flight, frameForm, tableForm, ?_, fun _ => info.trans mid.noInfo,
    fun rest => absurd isBusy rest, fun _ => trail.trans mid.noTrail, ?_, fun _ _ => registers, fun _ _ => table⟩
  · rw [cause, mid.noCause, isBusy]
    exact ⟨nofun, nofun⟩
  · intro _ init
    rw [isSymbol] at init
    cases init

theorem Reading.inv_clearReset : Inv (clearReset u.size.toNat u) := by
  obtain ⟨least, greatest⟩ := mid.size
  have registers := registerInv_freshRegisters mid.subWidth mid.params least greatest rfl
  exact mid.inv rfl rfl rfl rfl rfl rfl rfl mid.frameForm (entriesBelow_wf mid.tableForm _)
    (registerInv_congr registers rfl) (tableInv_clearReset mid.table greatest)

/-- A code that is neither clear nor stop nor invalid has a run (R107), and so an end. -/
theorem Reading.dataCode_cases {c : Code} (notClear : c.toNat ≠ 2 ^ u.size.toNat)
    (notStop : c.toNat ≠ 2 ^ u.size.toNat + 1) (below : c.toNat < u.nent.toNat) :
    ∃ r, runOf u.table walkFuel c.toNat = some r ∧ r.length ≤ 4095 ∧
      (dataCode c u = .next (runDone c u r) ∨ ∃ k, k < r.length ∧ dataCode c u = .next (runCut u r k)) := by
  obtain ⟨r, -, hr, -, -, short, -⟩ := resolves_of_tableInv mid.table mid.nent.2 below notClear notStop
  exact ⟨r, hr, short, dataCode_of_resolved hr mid.subWidth⟩

theorem Reading.inv_runDone {c : Code} {r : List Byte} (below : c.toNat < u.nent.toNat)
    (hr : runOf u.table walkFuel c.toNat = some r) (short : r.length ≤ 4095) : Inv (runDone c u r) := by
  have rel := repairedTable_relabelled mid.table mid.nent.1 (r.headD 0#8)
  have registers := mid.registers
  rw [growWidth_eq] at registers
  rw [runDone, dataDone_eq]
  refine mid.inv rfl rfl rfl rfl rfl rfl rfl (applyWrites_wf _ mid.frameForm) (repairedTable_wf mid.tableForm _)
    (registerInv_remembered registers rfl) (tableInv_of_relabelled mid.table rel rfl rfl fun _ => ⟨below, ?_⟩)
  obtain ⟨r', hr', length, first⟩ := runOf_of_relabelled rel hr
  refine ⟨r', hr', ?_, ?_⟩
  · rw [length]
    exact (BitVec.toNat_ofNat ..).trans (Nat.mod_eq_of_lt (by omega))
  · obtain ⟨b, q, rfl⟩ := List.exists_cons_of_ne_nil (runOf_ne_nil hr)
    exact first

theorem Reading.inv_stopCode {t : State} (h : stopCode u = .next t) : Inv t := by
  have done := performed_stopCode h
  have params : t.params.wf = true := done.params ▸ mid.params
  have frameForm : Memory.wf t.fb = true := done.frame ▸ mid.frameForm
  rcases stopCode_cases u with ⟨v, hv, frame, -⟩ | ⟨v, hv, -, -⟩ <;> rw [hv] at h <;> cases h
  · have cause : v.cause = none := by rw [frame]; exact mid.noCause
    have info : v.info = 0#32 := by rw [frame]; exact mid.noInfo
    refine inv_at_rest nofun params rfl frameForm rfl ?_ fun _ => info
    rw [finished_cause, cause]
    exact ⟨nofun, nofun⟩
  · exact inv_faulted params frameForm

end

/-! ## Every step -/

theorem SymbolStep.inv {s t : State} (h : SymbolStep s t) (inv : Inv s) (busy : s.state = .busy)
    (symbol : s.phase = .symbol) : Inv t := by
  obtain ⟨ws, done⟩ := h.performed
  have params : t.params.wf = true := done.params ▸ inv.params
  have frameForm : Memory.wf t.fb = true := done.frame ▸ applyWrites_wf ws inv.frameForm
  cases h with
  | noRoom prev notFull depth => exact inv_faulted params frameForm
  | noCode ins halts moved cause => exact inv_faulted params frameForm
  | invalid read notClear notStop above => exact inv_faulted params frameForm
  | clear read isClear => exact (reading_of_codeRead inv busy symbol read).inv_clearReset
  | stop read notClear isStop ends => exact (reading_of_codeRead inv busy symbol read).inv_stopCode ends
  | data read notClear notStop below does =>
    have mid := reading_of_codeRead inv busy symbol read
    obtain ⟨r, hr, short, whole | ⟨k, -, cut⟩⟩ := mid.dataCode_cases notClear notStop below
    · rw [whole] at does
      cases does
      exact mid.inv_runDone below hr short
    · rw [cut] at does
      cases does
      exact inv_faulted params frameForm

/-- What `INIT` leaves for a legal size: the first columns of the decode (R29, R80). -/
theorem inv_seeded {s : State} {b : Byte} {r : List Byte} (inv : Inv s) (busy : s.state = .busy) (hw : s.w ≠ 0#16)
    (least : 2 ≤ b.toNat) (greatest : b.toNat ≤ 8) : Inv (seeded b.toNat (consume b r s)) := by
  have size := seeded_size_toNat (consume b r s) greatest
  have registers := registerInv_freshRegisters (s := seeded b.toNat (consume b r s)) hw inv.params least greatest size
  refine ⟨inv.params, rfl, inv.frameForm, rootEntries_wf _, inv.cause, inv.info, fun rest => absurd busy rest,
    inv.noTrail, nofun, fun _ _ => registerInv_congr registers rfl,
    fun _ _ => tableInv_seeded _ greatest⟩

theorem BlockStep.inv {s t : State} (h : BlockStep s t) (inv : Inv s) : Inv t := by
  cases h with
  | rest atRest => exact inv
  | badGeometry busy init => exact inv_faulted inv.params inv.frameForm
  | noSize busy init => exact inv_faulted inv.params inv.frameForm
  | badSize busy init hb => exact inv_faulted inv.params inv.frameForm
  | seeds busy init hw hb least greatest => exact inv_seeded inv busy hw least greatest
  | symbol busy symbol h => exact h.inv inv busy symbol

theorem inv_started {s : State} (inv : Inv s) (rest : s.state ≠ .busy) : Inv (started s) where
  params := inv.params
  rest := inv.rest
  frameForm := inv.frameForm
  tableForm := inv.tableForm
  cause := ⟨nofun, nofun⟩
  info := fun _ => rfl
  noTable := fun h => absurd rfl h
  noTrail := fun _ => rfl
  starting := fun _ _ => ⟨rfl, rfl, rfl, rfl, rfl, rfl, rfl, rfl, rfl, rfl, rfl, rfl, rfl, inv.noTable rest⟩
  registers := fun _ h => nomatch h
  decoding := fun _ h => nomatch h

theorem HostStep.inv {e : EnvEvent} {s t : State} (h : HostStep e s t) (inv : Inv s) : Inv t := by
  cases h with
  | ignored bits off v => exact inv
  | geometry bits off v rest x y w cw ch =>
    exact inv_at_rest rest inv.params inv.rest inv.frameForm (inv.noTable rest) inv.cause inv.info
  | start bits off v rest => exact inv_started inv rest
  | read bits off v =>
    exact inv_of_host inv s.env _
  | reset => exact inv_hardwareReset inv.params inv.frameForm
  | source bytes rest =>
    exact inv_at_rest rest inv.params inv.rest inv.frameForm (inv.noTable rest) inv.cause inv.info
  | frame a v rest =>
    exact inv_at_rest rest inv.params inv.rest (store_wf inv.frameForm a v) (inv.noTable rest) inv.cause inv.info

/-- Settles O45: the block's turn and every event of the environment keep the invariant. -/
theorem stepKeepsInvariant : Obligations.StepKeepsInvariant := by
  intro s t inv h
  rcases step_cases h with ⟨e, -, block⟩ | ⟨ev, r, -, -, host⟩
  · exact block.inv (inv_of_host inv e s.hostData)
  · exact host.inv (inv_of_host inv r s.hostData)

/-! ## No stop -/

/-- Behind a code that was read under the invariant every class has a next state. -/
theorem Reading.exec_codeInstr {u : State} (mid : Reading u) (c : Nat) : ∃ t, exec (codeInstr c u) u = .next t := by
  rw [codeInstr, exec_classify _ _ _ _ _ rfl]
  split
  case isTrue => exact ⟨_, rfl⟩
  case isFalse notClear =>
    split
    case isTrue => rcases stopCode_cases u with ⟨v, hv, -⟩ | ⟨v, hv, -⟩ <;> exact ⟨_, hv⟩
    case isFalse notStop =>
      split
      case isTrue => exact ⟨_, rfl⟩
      case isFalse below =>
        obtain ⟨r, -, -, done | ⟨k, -, cut⟩⟩ := mid.dataCode_cases notClear notStop (Nat.not_le.1 below)
        · exact ⟨_, done⟩
        · exact ⟨_, cut⟩

/-- The width of a fetch is one that R83 is given for. -/
theorem fetchWidth_bounds {s t : State} (inv : Inv s) (busy : s.state = .busy) (symbol : s.phase = .symbol)
    (ins : insertPhase s = .go () t) : 3 ≤ t.width.toNat ∧ t.width.toNat ≤ 12 := by
  obtain ⟨-, least, greatest, -⟩ := fetchWidthClosedForm s t inv busy symbol ins
  have size : t.size = s.size := by
    rcases insertPhase_cases s with ⟨-, -, -, hp⟩ | ⟨-, -, -, hp⟩ | ⟨-, hp⟩ <;> rw [hp] at ins <;> cases ins <;> rfl
  have := (inv.registers busy symbol).size.1
  rw [size] at least
  exact ⟨by omega, greatest⟩

/-- A `SYMBOL` step under the invariant has a next state: before the fetch, in it, or behind it. -/
theorem fetchSymbol_next {s : State} (inv : Inv s) (busy : s.state = .busy) (symbol : s.phase = .symbol) :
    ∃ t, runFetched (fetchedOf (fetchSymbol s)) = .next t := by
  rcases insertPhase_cases s with ⟨-, -, -, hp⟩ | ⟨-, -, -, hp⟩ | ⟨-, hp⟩
  case inl => exact ⟨_, by rw [fetchSymbol_of_insert_halt hp]; rfl⟩
  all_goals
    rcases readCode_cases _ _ (insertPhase_flight hp) with ⟨noWidth, -⟩ | ⟨c, u, hr, -⟩ | ⟨c, n, u, hr, -⟩
    · exact absurd (fetchWidth_bounds inv busy symbol hp) noWidth
    · have read : codeRead s c u := ⟨_, hp, hr⟩
      rw [fetchSymbol_of_codeRead read]
      exact (reading_of_codeRead inv busy symbol read).exec_codeInstr c
    · exact ⟨_, by rw [fetchSymbol_of_read_halt hp hr]; rfl⟩

/-- `INIT` has a next state in each of its cases (R80). -/
theorem fetchInit_next (s : State) : ∃ t, runFetched (fetchedOf (fetchInit s)) = .next t := by
  by_cases hw : s.w = 0#16
  case pos => exact ⟨_, by rw [fetchInit_of_zeroWidth hw]; rfl⟩
  case neg =>
    rcases hb : s.bs with _ | ⟨b, r⟩
    case nil => exact ⟨_, by rw [fetchInit_of_empty hw hb]; rfl⟩
    case cons =>
      rw [fetchInit_of_cons hw hb, fetchedOf, runFetched_run]
      by_cases illegal : b.toNat < 2 ∨ 8 < b.toNat
      · exact ⟨_, exec_mcs_of_illegal _ illegal⟩
      · exact ⟨_, exec_mcs_of_legal _ (by omega) (by omega)⟩

/-- Settles O47: the turn is nothing, `INIT`, or a `SYMBOL` step whose valid codes all have runs. -/
theorem blockNeverStops : Obligations.BlockNeverStops := by
  intro s e inv turn
  rw [step_of_blockTurn turn]
  rcases fetchBlock_cases { s with env := e } with ⟨-, hf⟩ | ⟨-, -, hf⟩ | ⟨busy, symbol, hf⟩ <;> rw [hf]
  · exact ⟨_, rfl⟩
  · exact fetchInit_next _
  · exact fetchSymbol_next (inv_of_host inv e s.hostData) busy symbol

/-! ## The faults of a `SYMBOL` step -/

/-- With all the entries of R4 there is room for every insertion (R103). -/
theorem SymbolStep.cause_ne_outOfMemory {s t : State} (h : SymbolStep s t) (inv : Inv s) (busy : s.state = .busy)
    (symbol : s.phase = .symbol) (depth : s.params.tableDepth = 4096) : t.cause ≠ some .outOfMemory := by
  have registers := inv.registers busy symbol
  cases h with
  | noRoom prev notFull noRoom =>
    have cap : s.nent.toNat = 4096 := Nat.le_antisymm registers.nent.2 (depth ▸ noRoom)
    rw [registers.full.2 cap] at notFull
    cases notFull
  | noCode ins halts moved cause => rcases cause with rfl | rfl <;> nofun
  | invalid read notClear notStop above => nofun
  | clear read isClear =>
    rw [clearReset_cause, (reading_of_codeRead inv busy symbol read).noCause]
    nofun
  | stop read notClear isStop ends =>
    rcases stopCode_cases _ with ⟨v, hv, frame, -⟩ | ⟨v, hv, -⟩ <;> rw [hv] at ends <;> cases ends
    · rw [finished_cause, frame, (reading_of_codeRead inv busy symbol read).noCause]
      nofun
    · nofun
  | data read notClear notStop below does =>
    have mid := reading_of_codeRead inv busy symbol read
    obtain ⟨r, -, -, done | ⟨k, -, cut⟩⟩ := mid.dataCode_cases notClear notStop below
    · rw [done] at does
      cases does
      rw [runDone, dataDone_eq, mid.noCause]
      nofun
    · rw [cut] at does
      cases does
      nofun

/-- Settles O52: no other step raises that fault, and the host's acts keep the cause or clear it. -/
theorem noOutOfMemoryAtFullDepth : Obligations.NoOutOfMemoryAtFullDepth := by
  intro s t inv depth other h
  rcases step_cases h with ⟨e, -, block⟩ | ⟨ev, r, -, -, host⟩
  · cases block with
    | rest atRest => exact other
    | badGeometry busy init | noSize busy init | badSize busy init hb => nofun
    | seeds busy init hw hb least greatest => exact other
    | symbol busy symbol h => exact h.cause_ne_outOfMemory (inv_of_host inv e s.hostData) busy symbol depth
  · cases host with
    | start bits off v rest | reset => nofun
    | _ => exact other

end Sys2Proof.Machine
end

section
/-!
The code stream behind the framing (R41, R61, R82 to R85): the data bytes in front of `FetchData`, the bits a round of
`ReadCode` takes, its loop with enough bits and with too few; and O8 to O11, O29.
-/
namespace Sys2Proof.Machine

/-! ## The byte tokens -/

/-- Settles O8: the three tokens outside `Drain`. -/
theorem tokensOfACode : Obligations.TokensOfACode := fun _ code =>
  ⟨fun n => exec_len_of_code n code, fun d => exec_data_of_code d code, exec_term_of_code code⟩

theorem exec_len_of_drain {s : State} (draining : s.flight.draining = true) (n : Byte) :
    exec (.len n) s = outcomeOf (skipBytes n.toNat { s with trail := true }) :=
  congrArg outcomeOf (lenToken_of_drain draining n)

/-- Settles O9: `LEN` drops the bytes of its sub-block as far as the source has them. -/
theorem tokensOfADrain : Obligations.TokensOfADrain := by
  intro s draining
  refine ⟨fun n whole => ?_, fun n cut => ?_, fun d => ?_, ?_⟩
  · rw [exec_len_of_drain draining, skipBytes_eq, if_pos whole]
    rfl
  · rw [exec_len_of_drain draining, skipBytes_eq, if_neg (Nat.not_le.2 cut)]
    rfl
  · exact congrArg outcomeOf (dataToken_of_drain draining d)
  · exact congrArg outcomeOf (termToken_of_drain draining)

/-! ## The data bytes behind the framing -/

@[simp] theorem dataBytes_nil (rem : Nat) : dataBytes rem [] = [] := by
  cases rem <;> rfl

theorem dataBytes_term (r : List Byte) : dataBytes 0 (0#8 :: r) = [] := rfl

theorem dataBytes_len {n : Byte} (r : List Byte) (h : n ≠ 0#8) : dataBytes 0 (n :: r) = dataBytes n.toNat r := if_neg h

theorem dataBytes_data {m : BitVec 8} (d : Byte) (r : List Byte) (h : m ≠ 0#8) :
    dataBytes m.toNat (d :: r) = d :: dataBytes (m - 1#8).toNat r := by
  have count : m.toNat = (m - 1#8).toNat + 1 := by bv_omega
  rw [count]
  rfl

/-- An open sub-block yields a data byte unless the source has ended. -/
theorem eq_nil_of_dataBytes_eq_nil {m : BitVec 8} {l : List Byte} (opened : m ≠ 0#8) (h : dataBytes m.toNat l = []) :
    l = [] := by
  cases l with
  | nil => rfl
  | cons d r => rw [dataBytes_data d r opened] at h; cases h

/-- What `FetchData` does in front of a data byte (R82): it takes that byte, whatever framing stands before it. -/
structure FetchedByte (s : State) (d : Byte) (ds : List Byte) (t : State) : Prop where
  flow : fetchData s = .go () t
  frame : t = { s with cur := d, subrem := t.subrem, bs := t.bs, ports := t.ports }
  took : tookBytes s t
  rest : dataBytes t.subrem.toNat t.bs = ds
  terminator : afterTerminator t.subrem.toNat t.bs = afterTerminator s.subrem.toNat s.bs

theorem fetchData_of_dataBytes_cons {s : State} {d : Byte} {ds : List Byte} (code : s.flight.draining = false)
    (h : dataBytes s.subrem.toNat s.bs = d :: ds) : ∃ t, FetchedByte s d ds t := by
  obtain ⟨-, -, -, subBlock, -, dataByte⟩ := fetchDataByTokens s code
  rcases hb : s.bs with _ | ⟨n, r⟩
  case nil => simp [hb] at h
  case cons =>
    rw [hb] at h
    by_cases closed : s.subrem = 0#8
    case neg =>
      rw [dataBytes_data n r closed] at h
      cases h
      obtain ⟨u, -, flow, rfl⟩ := dataByte d r closed hb
      refine ⟨_, flow, rfl, ⟨[d], hb, rfl⟩, rfl, ?_⟩
      rw [hb]
      exact (afterTerminator_of_data d r closed).symm
    case pos =>
      rw [closed] at h
      by_cases term : n = 0#8
      case pos =>
        subst term
        cases h
      case neg =>
        replace h := (dataBytes_len r term).symm.trans h
        rcases r with _ | ⟨d', r⟩
        case nil => simp at h
        case cons =>
          rw [dataBytes_data d' r term] at h
          cases h
          obtain ⟨_, u, -, -, flow, rfl⟩ := subBlock n d r closed term hb
          refine ⟨_, flow, rfl, ⟨[n, d], hb, rfl⟩, rfl, ?_⟩
          rw [hb, closed]
          exact ((afterTerminator_of_len _ term).trans (afterTerminator_of_data d r term)).symm

/-- What `FetchData` does where no data byte is left (R82, R154, R155): the fault of the terminator, or that of the end
of the source. -/
structure FetchedEnd (s t : State) : Prop where
  terminated : ∀ r, afterTerminator s.subrem.toNat s.bs = some r →
    fetchData s = .halt (.next (faulted .prematureTerminator s.flight.got t)) ∧ t.bs = r ∧ t.subrem = 0#8
  exhausted : afterTerminator s.subrem.toNat s.bs = none →
    fetchData s = .halt (.next (faulted .unexpectedEof s.off.toNat t)) ∧ t.bs = []
  frame : t = { s with subrem := t.subrem, bs := t.bs, ports := t.ports }
  took : tookBytes s t

theorem afterTerminator_nil (rem : Nat) : afterTerminator rem [] = none := by
  cases rem <;> rfl

theorem fetchData_of_dataBytes_nil {s : State} (code : s.flight.draining = false)
    (h : dataBytes s.subrem.toNat s.bs = []) : ∃ t, FetchedEnd s t := by
  obtain ⟨-, terminator, noData, -, -, -⟩ := fetchDataByTokens s code
  rcases hb : s.bs with _ | ⟨n, r⟩
  case nil =>
    refine ⟨s, fun r hr => ?_, fun _ => ⟨fetchData_of_empty hb, hb⟩, rfl, tookBytes_none rfl rfl⟩
    rw [hb, afterTerminator_nil] at hr
    cases hr
  case cons =>
    rw [hb] at h
    have closed : s.subrem = 0#8 := by
      by_contra opened
      rw [dataBytes_data n r opened] at h
      cases h
    by_cases term : n = 0#8
    case pos =>
      subst term
      have stop : afterTerminator s.subrem.toNat s.bs = some r := by rw [hb, closed]; rfl
      refine ⟨consume 0#8 r s, fun r' hr => ?_, fun hn => ?_, rfl, tookBytes_consume hb⟩
      · obtain rfl := Option.some.inj (stop.symm.trans hr)
        exact ⟨(terminator r closed hb).2, rfl, closed⟩
      · rw [stop] at hn
        cases hn
    case neg =>
      rw [closed] at h
      obtain rfl := eq_nil_of_dataBytes_eq_nil term ((dataBytes_len r term).symm.trans h)
      have stop : afterTerminator s.subrem.toNat s.bs = none := by
        rw [hb, closed]
        exact (afterTerminator_of_len [] term).trans (afterTerminator_nil _)
      refine ⟨{ consume n [] s with subrem := n }, fun r' hr => ?_, fun _ => ⟨noData n closed term hb, rfl⟩, rfl,
        ⟨[n], hb, rfl⟩⟩
      rw [stop] at hr
      cases hr

/-! ## The value of some bits -/

theorem codeValue_append (a b : List Bool) : codeValue (a ++ b) = codeValue a + 2 ^ a.length * codeValue b := by
  induction a with
  | nil => simp [codeValue]
  | cons c a ih =>
    rw [List.cons_append, codeValue, codeValue, ih, List.length_cons, pow_succ]
    ring

theorem codeValue_lt (a : List Bool) : codeValue a < 2 ^ a.length := by
  induction a with
  | nil => simp [codeValue]
  | cons c a ih =>
    have := c.toNat_le
    rw [codeValue, List.length_cons, pow_succ]
    omega

theorem testBit_codeValue (a : List Bool) (i : Nat) : (codeValue a).testBit i = a.getD i false := by
  induction a generalizing i with
  | nil => simp [codeValue]
  | cons c a ih =>
    cases i with
    | zero => cases c <;> simp [codeValue, Nat.testBit_zero]
    | succ i =>
      have half : (c.toNat + 2 * codeValue a) / 2 = codeValue a := by have := c.toNat_le; omega
      rw [codeValue, Nat.testBit_succ, half, ih, List.getD_cons_succ]

@[simp] theorem length_byteBits (b : Byte) : (byteBits b).length = 8 := by simp [byteBits]

theorem getD_byteBits (b : Byte) (i : Nat) : (byteBits b).getD i false = b.getLsbD i := by
  by_cases small : i < 8
  · simp [byteBits, small]
  · rw [List.getD_eq_default _ _ (by simpa using small), BitVec.getLsbD_of_ge b i (by omega)]

/-- The bits a round takes of a byte are the next of the stream, the first the least significant (R41, R83). -/
theorem bitsFrom_eq_codeValue (b : Byte) (shift take : Nat) :
    bitsFrom b shift take = codeValue (((byteBits b).drop shift).take take) := by
  refine Nat.eq_of_testBit_eq fun i => ?_
  rw [testBit_codeValue, bitsFrom, Nat.testBit_mod_two_pow, Nat.testBit_shiftRight, BitVec.testBit_toNat,
    ← getD_byteBits]
  by_cases taken : i < take <;> simp [taken, List.getD_eq_getElem?_getD]

/-! ## The rounds of `ReadCode` -/

/-- The bits that a round finds once a byte stands in `CUR`: those of `CUR` from `SHIFT` up, a new byte whole. -/
def readyBits (v : State) : List Bool :=
  (byteBits v.cur).drop v.shift.toNat ++ (dataBytes v.subrem.toNat v.bs).flatMap byteBits

/-- The first half of a round (R83): `got` is noted and `CUR` is loaded where it has no bit left. -/
def loadByte (got : Nat) (s : State) : Flow Unit :=
  if s.shift = 0#3 then fetchData { s with flight := { s.flight with got := got } }
  else .go () { s with flight := { s.flight with got := got } }

/-- A round finds the unread bits in `CUR` and behind it; the framing has moved past a length byte at most. -/
structure ByteLoaded (got : Nat) (s v : State) : Prop where
  flow : loadByte got s = .go () v
  moved : bitReaderMoved s v
  shift : v.shift = s.shift
  flight : v.flight = { s.flight with got := got }
  bits : readyBits v = unreadBits s
  last : (dataBytes v.subrem.toNat v.bs).getLastD v.cur = (dataBytes s.subrem.toNat s.bs).getLastD s.cur
  terminator : afterTerminator v.subrem.toNat v.bs = afterTerminator s.subrem.toNat s.bs

/-- With an empty `CUR` the unread bits are those of the data bytes (R21, R41). -/
theorem unreadBits_of_empty {s : State} (empty : s.shift = 0#3) :
    unreadBits s = (dataBytes s.subrem.toNat s.bs).flatMap byteBits := by
  rw [unreadBits, if_pos empty, List.nil_append]

theorem unreadBits_of_loaded {s : State} (loaded : s.shift ≠ 0#3) : unreadBits s = readyBits s := by
  rw [unreadBits, if_neg loaded, readyBits]

/-- No bit is unread when `CUR` is empty and no data byte is left. -/
theorem eq_nil_of_unreadBits_eq_nil {s : State} (h : unreadBits s = []) :
    s.shift = 0#3 ∧ dataBytes s.subrem.toNat s.bs = [] := by
  by_cases empty : s.shift = 0#3
  case neg =>
    have length := congrArg List.length ((unreadBits_of_loaded empty).symm.trans h)
    have := s.shift.isLt
    simp only [readyBits, List.length_append, List.length_drop, length_byteBits, List.length_nil] at length
    omega
  case pos =>
    rw [unreadBits_of_empty empty] at h
    refine ⟨empty, List.eq_nil_iff_forall_not_mem.2 fun b hb => ?_⟩
    have := congrArg List.length (List.flatMap_eq_nil_iff.1 h b hb)
    simp at this

theorem byteLoaded_of_bits {s : State} (got : Nat) (code : s.flight.draining = false) (more : unreadBits s ≠ []) :
    ∃ v, ByteLoaded got s v := by
  by_cases empty : s.shift = 0#3
  case neg =>
    exact ⟨{ s with flight := { s.flight with got := got } }, if_neg empty, ⟨rfl, tookBytes_none rfl rfl⟩, rfl, rfl,
      (unreadBits_of_loaded empty).symm, rfl, rfl⟩
  case pos =>
    rcases hd : dataBytes s.subrem.toNat s.bs with _ | ⟨d, ds⟩
    case nil => exact absurd (by rw [unreadBits_of_empty empty, hd]; rfl) more
    case cons =>
      obtain ⟨v, flow, frame, took, rest, terminator⟩ :=
        fetchData_of_dataBytes_cons (s := { s with flight := { s.flight with got := got } }) code hd
      have cur : v.cur = d := by rw [frame]
      have shift : v.shift = 0#3 := by rw [frame]; exact empty
      refine ⟨v, (if_pos empty).trans flow, ⟨?_, took⟩, shift.trans empty.symm, by rw [frame], ?_, ?_, terminator⟩
      · rw [frame]
      · rw [readyBits, cur, shift, rest, unreadBits_of_empty empty, hd]
        rfl
      · rw [rest, cur, hd, List.getLastD_cons]

/-- The state a round leaves (R83). -/
def roundDone (n got : Nat) (v : State) : State :=
  { v with shift := shiftAfter v.shift (takeCount n got v.shift.toNat) }

theorem readRounds_of_enough {f n got c : Nat} {s : State} (enough : n ≤ got) :
    readRounds f n got c s = .go c s := by
  cases f with
  | zero => rfl
  | succ f => rw [readRounds, if_pos enough]

theorem readRounds_succ {f n got c : Nat} {s : State} (more : got < n) :
    readRounds (f + 1) n got c s = andThen (loadByte got s) fun _ v =>
      readRounds f n (got + takeCount n got v.shift.toNat)
        (c ||| (bitsFrom v.cur v.shift.toNat (takeCount n got v.shift.toNat) <<< got)) (roundDone n got v) := by
  rw [readRounds, if_neg (Nat.not_le.2 more)]
  rfl

theorem takeCount_bounds {n got : Nat} (shift : BitVec 3) (more : got < n) :
    0 < takeCount n got shift.toNat ∧ got + takeCount n got shift.toNat ≤ n ∧
      shift.toNat + takeCount n got shift.toNat ≤ 8 := by
  have := shift.isLt
  unfold takeCount
  omega

/-- What a round leaves unread (R83): `SHIFT` is back at 0 exactly when `CUR` has been used up. -/
theorem unreadBits_roundDone {n got : Nat} {v : State} (more : got < n) :
    unreadBits (roundDone n got v) = (readyBits v).drop (takeCount n got v.shift.toNat) := by
  obtain ⟨positive, -, fits⟩ := takeCount_bounds v.shift more
  have left : ((byteBits v.cur).drop v.shift.toNat).length = 8 - v.shift.toNat := by simp
  have shift : (roundDone n got v).shift.toNat = (v.shift.toNat + takeCount n got v.shift.toNat) % 8 := by
    rw [roundDone, shiftAfter, BitVec.toNat_ofNat]
    exact Nat.mod_eq_of_lt (Nat.mod_lt _ (by decide))
  have rest : dataBytes (roundDone n got v).subrem.toNat (roundDone n got v).bs = dataBytes v.subrem.toNat v.bs := rfl
  rw [readyBits, List.drop_append_of_le_length (by omega), List.drop_drop]
  by_cases usedUp : v.shift.toNat + takeCount n got v.shift.toNat = 8
  case pos =>
    have empty : (roundDone n got v).shift = 0#3 := BitVec.eq_of_toNat_eq (by rw [shift, usedUp]; rfl)
    rw [unreadBits_of_empty empty, rest, usedUp, List.drop_eq_nil_of_le (length_byteBits _).le, List.nil_append]
  case neg =>
    rw [Nat.mod_eq_of_lt (by omega)] at shift
    have loaded : (roundDone n got v).shift ≠ 0#3 := fun h => by simp [h] at shift; omega
    rw [unreadBits_of_loaded loaded, readyBits, shift, rest]
    rfl

/-- A round's code so far is the value of the bits so far (R41, R83). -/
theorem codeValue_of_round {n got c : Nat} {v : State} (more : got < n) (low : c < 2 ^ got) :
    (c ||| (bitsFrom v.cur v.shift.toNat (takeCount n got v.shift.toNat) <<< got)) =
      c + 2 ^ got * codeValue ((readyBits v).take (takeCount n got v.shift.toNat)) := by
  obtain ⟨-, -, fits⟩ := takeCount_bounds v.shift more
  have left : ((byteBits v.cur).drop v.shift.toNat).length = 8 - v.shift.toNat := by simp
  rw [bitsFrom_eq_codeValue, readyBits, List.take_append_of_le_length (by omega), Nat.or_comm, Nat.shiftLeft_eq,
    Nat.mul_comm, Nat.add_comm]
  exact (Nat.two_pow_add_eq_or_of_lt low _).symm

theorem length_take_readyBits {n got : Nat} {v : State} (more : got < n) :
    ((readyBits v).take (takeCount n got v.shift.toNat)).length = takeCount n got v.shift.toNat := by
  obtain ⟨-, -, fits⟩ := takeCount_bounds v.shift more
  rw [List.length_take, readyBits, List.length_append, List.length_drop, length_byteBits]
  omega

theorem bitReaderMoved_roundDone (n got : Nat) (v : State) : bitReaderMoved v (roundDone n got v) :=
  ⟨rfl, tookBytes_none rfl rfl⟩

/-! ## The loop of `ReadCode` -/

/-- The code after a round is in range of the bits taken (R66). -/
theorem low_of_round {n got c : Nat} {v : State} (more : got < n) (low : c < 2 ^ got) :
    c + 2 ^ got * codeValue ((readyBits v).take (takeCount n got v.shift.toNat)) <
      2 ^ (got + takeCount n got v.shift.toNat) := by
  have bound := codeValue_lt ((readyBits v).take (takeCount n got v.shift.toNat))
  rw [length_take_readyBits more] at bound
  have := Nat.mul_le_mul_left (2 ^ got) bound
  rw [Nat.mul_succ] at this
  rw [pow_add]
  omega

/-- The bits a round takes and those of the rounds to come are the bits of the code (R41). -/
theorem codeValue_take_split {n got : Nat} {v : State} (more : got < n) :
    codeValue ((readyBits v).take (n - got)) =
      codeValue ((readyBits v).take (takeCount n got v.shift.toNat)) + 2 ^ takeCount n got v.shift.toNat *
        codeValue ((unreadBits (roundDone n got v)).take (n - (got + takeCount n got v.shift.toNat))) := by
  obtain ⟨-, within, -⟩ := takeCount_bounds v.shift more
  have split : n - got = takeCount n got v.shift.toNat + (n - (got + takeCount n got v.shift.toNat)) := by omega
  rw [split, List.take_add, codeValue_append, length_take_readyBits more, unreadBits_roundDone more]

/-- The loop of `ReadCode` goes on from `got` bits of value `c` with the next bits of the stream, which leave it (R41,
R83). -/
def readsBits (n got c : Nat) (s : State) (m : Flow Nat) : Prop :=
  ∃ t, m = .go (c + 2 ^ got * codeValue ((unreadBits s).take (n - got))) t ∧
    unreadBits t = (unreadBits s).drop (n - got) ∧ bitReaderMoved s t

theorem readsBits_of_enough {f n got c : Nat} {s : State} (enough : n ≤ got) :
    readsBits n got c s (readRounds f n got c s) := by
  rw [readsBits, readRounds_of_enough enough, Nat.sub_eq_zero_of_le enough]
  exact ⟨s, by simp [codeValue], rfl, bitReaderMoved_refl s⟩

/-- Every round takes a bit, so as many rounds as bits are asked for are enough (R83). -/
theorem readsBits_readRounds {f n got c : Nat} {s : State} (code : s.flight.draining = false) (fuel : n - got ≤ f)
    (low : c < 2 ^ got) (enough : n - got ≤ (unreadBits s).length) :
    readsBits n got c s (readRounds f n got c s) := by
  induction f generalizing got c s with
  | zero => exact readsBits_of_enough (by omega)
  | succ f ih =>
    rcases Nat.lt_or_ge got n with more | ready
    case inr => exact readsBits_of_enough ready
    case inl =>
      have some : unreadBits s ≠ [] := fun h => by simp [h] at enough; omega
      obtain ⟨v, flow, moved, -, flight, bits, -⟩ := byteLoaded_of_bits got code some
      obtain ⟨positive, within, -⟩ := takeCount_bounds v.shift more
      have unread := unreadBits_roundDone (v := v) more
      have codeNow : (roundDone n got v).flight.draining = false := by rw [roundDone, flight]; exact code
      obtain ⟨t, go, left, moved'⟩ :=
        ih codeNow (by omega) (low_of_round (v := v) more low) (by rw [unread, bits, List.length_drop]; omega)
      refine ⟨t, ?_, ?_, bitReaderMoved_trans (bitReaderMoved_trans moved (bitReaderMoved_roundDone n got v)) moved'⟩
      · rw [readRounds_succ more, flow, andThen_of_go, codeValue_of_round more low, go, ← bits,
          codeValue_take_split more]
        congr 1
        ring
      · rw [left, unread, bits, List.drop_drop]
        congr 1
        omega

/-- Settles O10: `ReadCode` is its loop from no bit on. -/
theorem readCodeTakesNextBits : Obligations.ReadCodeTakesNextBits := by
  intro n s least greatest code enough
  obtain ⟨t, go, left, frame, took⟩ :=
    readsBits_readRounds (f := n) (n := n) (got := 0) (c := 0) code le_rfl (by decide) enough
  refine ⟨t, ?_, left, took, frame⟩
  rw [readCode, if_pos ⟨least, greatest⟩, go]
  simp

/-! ## The end of the code stream -/

/-- The loop of `ReadCode` ends where the code stream does (R82, R154, R155): all that was left of it has been consumed,
and `got` and those bits are what a terminator tells of. -/
structure ReadsOut (n got c : Nat) (s : State) (m : Flow Nat) (t : State) : Prop where
  terminated : ∀ r, afterTerminator s.subrem.toNat s.bs = some r →
    m = .halt (.next (faulted .prematureTerminator (got + (unreadBits s).length) t)) ∧ t.bs = r ∧ t.subrem = 0#8
  exhausted : afterTerminator s.subrem.toNat s.bs = none →
    m = .halt (.next (faulted .unexpectedEof s.off.toNat t)) ∧ t.bs = []
  moved : bitReaderMoved s t
  cur : t.cur = (dataBytes s.subrem.toNat s.bs).getLastD s.cur
  shift : t.shift = 0#3

/-- Without an unread bit it is the end of `FetchData`. -/
theorem readsOut_of_empty {f n got c : Nat} {s : State} (code : s.flight.draining = false) (more : got < n)
    (none : unreadBits s = []) : ∃ t, ReadsOut n got c s (readRounds (f + 1) n got c s) t := by
  obtain ⟨empty, noByte⟩ := eq_nil_of_unreadBits_eq_nil none
  obtain ⟨t, terminated, exhausted, frame, took⟩ :=
    fetchData_of_dataBytes_nil (s := { s with flight := { s.flight with got := got } }) code noByte
  have load : loadByte got s = fetchData { s with flight := { s.flight with got := got } } := if_pos empty
  refine ⟨t, fun r hr => ?_, fun hn => ?_, ⟨by rw [frame], took⟩, by rw [frame, noByte]; rfl,
    by rw [frame]; exact empty⟩
  · obtain ⟨halts, left⟩ := terminated r hr
    rw [readRounds_succ more, load, halts, andThen_of_halt, none]
    exact ⟨rfl, left⟩
  · obtain ⟨halts, left⟩ := exhausted hn
    rw [readRounds_succ more, load, halts, andThen_of_halt]
    exact ⟨rfl, left⟩

theorem readsOut_readRounds {f n got c : Nat} {s : State} (code : s.flight.draining = false) (fuel : n - got ≤ f)
    (few : (unreadBits s).length < n - got) : ∃ t, ReadsOut n got c s (readRounds f n got c s) t := by
  induction f generalizing got c s with
  | zero => omega
  | succ f ih =>
    have more : got < n := by omega
    by_cases none : unreadBits s = []
    case pos => exact readsOut_of_empty code more none
    case neg =>
      obtain ⟨v, flow, moved, -, flight, bits, last, terminator⟩ := byteLoaded_of_bits got code none
      have taken := length_take_readyBits (v := v) more
      have unread := congrArg List.length (unreadBits_roundDone (v := v) more)
      rw [bits] at taken unread
      rw [List.length_take] at taken
      rw [List.length_drop] at unread
      have codeNow : (roundDone n got v).flight.draining = false := by rw [roundDone, flight]; exact code
      have off : v.off = s.off := by rw [moved.1]
      obtain ⟨t, terminated, exhausted, moved', cur, shift⟩ := ih (got := got + takeCount n got v.shift.toNat)
        (c := c ||| (bitsFrom v.cur v.shift.toNat (takeCount n got v.shift.toNat) <<< got))
        (s := roundDone n got v) codeNow (by have := takeCount_bounds v.shift more; omega) (by omega)
      have round := readRounds_succ (f := f) (c := c) (s := s) more
      rw [flow, andThen_of_go] at round
      refine ⟨t, fun r hr => ?_, fun hn => ?_,
        bitReaderMoved_trans (bitReaderMoved_trans moved (bitReaderMoved_roundDone n got v)) moved', cur.trans last,
        shift⟩
      · obtain ⟨halts, left⟩ := terminated r (terminator.trans hr)
        refine ⟨round.trans (halts.trans ?_), left⟩
        have total : got + takeCount n got v.shift.toNat + (unreadBits (roundDone n got v)).length =
            got + (unreadBits s).length := by omega
        rw [total]
      · obtain ⟨halts, left⟩ := exhausted (terminator.trans hn)
        exact ⟨round.trans (halts.trans (by rw [← off]; rfl)), left⟩

/-- Settles O11: the loop runs out from no bit on. -/
theorem readCodeRunsOut : Obligations.ReadCodeRunsOut := by
  intro n s least greatest code few
  obtain ⟨t, terminated, exhausted, ⟨frame, took⟩, cur, shift⟩ :=
    readsOut_readRounds (f := n) (n := n) (got := 0) (c := 0) code le_rfl few
  have loop : readCode n s = readRounds n n 0 0 s := if_pos ⟨least, greatest⟩
  rw [cur, shift] at frame
  rw [Nat.zero_add] at terminated
  rw [loop]
  exact ⟨t, terminated, exhausted, took, frame⟩

/-! ## The code that a `SYMBOL` step reads -/

/-- A code that was read is the next bits of the stream, and there were enough of them (R66, R83). -/
theorem bits_of_readCode_go {n c : Nat} {s t : State} (code : s.flight.draining = false)
    (read : readCode n s = .go c t) :
    3 ≤ n ∧ n ≤ 12 ∧ n ≤ (unreadBits s).length ∧ c = codeValue ((unreadBits s).take n) ∧
      unreadBits t = (unreadBits s).drop n := by
  have width : 3 ≤ n ∧ n ≤ 12 := by
    by_contra h
    rw [readCode, if_neg h] at read
    cases read
  obtain ⟨least, greatest⟩ := width
  rcases Nat.lt_or_ge (unreadBits s).length n with few | enough
  case inl =>
    obtain ⟨u, terminated, exhausted, -⟩ := readCodeRunsOut n s least greatest code few
    rw [read] at terminated exhausted
    cases hr : afterTerminator s.subrem.toNat s.bs with
    | none => cases (exhausted hr).1
    | some r => cases (terminated r hr).1
  case inr =>
    obtain ⟨u, go, left, -⟩ := readCodeTakesNextBits n s least greatest code enough
    rw [read] at go
    cases go
    exact ⟨least, greatest, enough, rfl, left⟩

/-- A code that was read has 12 bits at most (R67). -/
theorem toNat_ofNat_of_readCode_go {n c : Nat} {s t : State} (code : s.flight.draining = false)
    (read : readCode n s = .go c t) : (BitVec.ofNat 12 c).toNat = c := by
  obtain ⟨-, greatest, enough, rfl, -⟩ := bits_of_readCode_go code read
  have bound := codeValue_lt ((unreadBits s).take n)
  rw [List.length_take_of_le enough] at bound
  rw [BitVec.toNat_ofNat]
  exact Nat.mod_eq_of_lt (bound.trans_le (Nat.pow_le_pow_right (by decide) greatest))

/-- Settles O29: the four arms are the four operations that the decoded row can be. -/
theorem symbolStepFollowsClass : Obligations.SymbolStepFollowsClass := by
  intro s t u e c turn busy symbol ins read
  have value := toNat_ofNat_of_readCode_go (insertPhase_flight ins) read
  have arms := (step_of_codeRead turn busy symbol ⟨t, ins, read⟩).trans (exec_classify _ _ _ _ u rfl)
  rw [value] at arms
  refine ⟨fun clear => ?_, fun stop => ?_, fun clear stop above => ?_, fun clear stop below => ?_⟩
  · rw [arms, if_pos clear, exec_clr]
  · rw [arms, if_neg (by omega), if_pos stop]
    exact (exec_of_isStopRow u (.inl rfl)).symm
  · rw [arms, if_neg clear, if_neg stop, if_pos above, exec_inv, value]
  · rw [arms, if_neg clear, if_neg stop, if_neg (Nat.not_le.2 below)]
    exact (exec_of_isDataRow u (.inr (.inl rfl))).symm

end Sys2Proof.Machine
end

section
/-!
A `SYMBOL` step and the framing (R86, R131): the bits it consumes, the same step behind another framing, and O51, O53.
-/
namespace Sys2Proof.Machine

/-! ## The bits a step consumes -/

/-- The code of a `SYMBOL` step is at least 3 bits of the stream (R66). -/
theorem unreadBits_of_codeRead {s u : State} {c : Nat} (read : codeRead s c u) :
    (unreadBits u).length + 3 ≤ (unreadBits s).length := by
  obtain ⟨t, ins, read⟩ := read
  obtain ⟨least, -, enough, -, left⟩ := bits_of_readCode_go (insertPhase_flight ins) read
  have same : unreadBits t = unreadBits s := by
    rcases insertPhase_cases s with ⟨-, -, -, hp⟩ | ⟨-, -, -, hp⟩ | ⟨-, hp⟩ <;> rw [hp] at ins <;> cases ins <;> rfl
  rw [left, List.length_drop, ← same]
  omega

theorem stopCode_state {u t : State} (h : stopCode u = .next t) : t.state ≠ .busy := by
  rcases stopCode_cases u with ⟨v, hv, -⟩ | ⟨v, hv, -⟩ <;> rw [hv] at h <;> cases h <;> nofun

/-- A `SYMBOL` step that does not end the run reads a code, and nothing moves the bit reader behind it (R120). -/
theorem SymbolStep.codeRead_of_busy {s t : State} (h : SymbolStep s t) (inv : Inv s) (busy : s.state = .busy)
    (symbol : s.phase = .symbol) (still : t.state = .busy) :
    ∃ c u, codeRead s c u ∧ unreadBits t = unreadBits u := by
  cases h with
  | noRoom | noCode | invalid => cases still
  | clear read isClear => exact ⟨_, _, read, rfl⟩
  | stop read notClear isStop ends =>
    exact absurd still (stopCode_state ends)
  | data read notClear notStop below does =>
    obtain ⟨r, -, -, done | ⟨k, -, cut⟩⟩ :=
      (reading_of_codeRead inv busy symbol read).dataCode_cases notClear notStop below
    · rw [done] at does
      cases does
      refine ⟨_, _, read, ?_⟩
      rw [runDone, dataDone_eq]
      rfl
    · rw [cut] at does
      cases does
      cases still

/-- Settles O51: the step reads a code, or it ends the run. -/
theorem symbolStepConsumes : Obligations.SymbolStepConsumes := by
  intro s t e inv turn busy symbol h still
  cases blockStep_of_blockTurn turn h with
  | rest atRest => exact absurd busy atRest
  | badGeometry _ init | noSize _ init | badSize _ init | seeds _ init => rw [symbol] at init; cases init
  | symbol busy symbol h =>
    obtain ⟨c, u, read, same⟩ := h.codeRead_of_busy (inv_of_host inv e s.hostData) busy symbol still
    rw [same]
    exact unreadBits_of_codeRead (s := { s with env := e }) read

/-! ## The same state behind another framing -/

/-- A state with another framing in front of it, and another record of its bytes. -/
def reframe (rem : BitVec 8) (bytes : List Byte) (ports : List PortEvent) (s : State) : State :=
  { s with subrem := rem, bs := bytes, ports := ports }

/-- Two states that agree but for the framing and the bytes seen on the source's port. -/
structure Alike (s s' : State) : Prop where
  frame : s' = reframe s'.subrem s'.bs s'.ports s
  writes : writesSeen s'.ports = writesSeen s.ports

section
variable {s s' : State} (h : Alike s s')
include h

theorem Alike.cur : s'.cur = s.cur := by rw [h.frame]; rfl

theorem Alike.shift : s'.shift = s.shift := by rw [h.frame]; rfl

theorem Alike.width : s'.width = s.width := by rw [h.frame]; rfl

theorem Alike.size : s'.size = s.size := by rw [h.frame]; rfl

theorem Alike.nent : s'.nent = s.nent := by rw [h.frame]; rfl

theorem Alike.flight : s'.flight = s.flight := by rw [h.frame]; rfl

end

/-- They have the same data bytes to come as well (R86). -/
structure Reframed (s s' : State) : Prop extends Alike s s' where
  bytes : dataBytes s'.subrem.toNat s'.bs = dataBytes s.subrem.toNat s.bs

/-- From one state to another the place of the terminator is the same. -/
def keepsEnd (s t : State) : Prop := afterTerminator t.subrem.toNat t.bs = afterTerminator s.subrem.toNat s.bs

theorem keepsEnd_trans {s t u : State} (h : keepsEnd s t) (k : keepsEnd t u) : keepsEnd s u := Eq.trans k h

theorem writesSeen_append (a b : List PortEvent) : writesSeen (a ++ b) = writesSeen a ++ writesSeen b :=
  List.filterMap_append

theorem writesSeen_byteRecord (bytes : List Byte) : writesSeen (byteRecord bytes) = [] := by
  refine List.filterMap_eq_nil_iff.2 fun e he => ?_
  obtain ⟨b, -, rfl⟩ := List.mem_map.1 (List.mem_reverse.1 he)
  rfl

theorem writesSeen_of_tookBytes {s t : State} (h : tookBytes s t) : writesSeen t.ports = writesSeen s.ports := by
  obtain ⟨bytes, -, ports⟩ := h
  rw [ports, writesSeen_append, writesSeen_byteRecord, List.nil_append]

/-- An operation that leaves the source alone does the same behind both framings. -/
theorem alike_of_commutes {s s' : State} (re : Alike s s') (f : State → State)
    (commutes : ∀ m b p, f (reframe m b p s) = reframe m b p (f s)) (ports : (f s).ports = s.ports) :
    Alike (f s) (f s') := by
  have moved : f s' = reframe s'.subrem s'.bs s'.ports (f s) := (congrArg f re.frame).trans (commutes _ _ _)
  have ports' : (f s').ports = s'.ports := by rw [moved]; rfl
  refine ⟨?_, by rw [ports', ports, re.writes]⟩
  rw [moved]
  rfl

theorem reframed_of_commutes {s s' : State} (re : Reframed s s') (f : State → State)
    (commutes : ∀ m b p, f (reframe m b p s) = reframe m b p (f s)) (ports : (f s).ports = s.ports)
    (subrem : (f s).subrem = s.subrem) (bs : (f s).bs = s.bs) : Reframed (f s) (f s') := by
  have moved : f s' = reframe s'.subrem s'.bs s'.ports (f s) := (congrArg f re.frame).trans (commutes _ _ _)
  refine ⟨alike_of_commutes re.toAlike f commutes ports, ?_⟩
  rw [moved, subrem, bs]
  exact re.bytes

/-! ## The phases of a step behind another framing -/

theorem insertPhase_reframe_go {s t : State} (h : insertPhase s = .go () t) (m : BitVec 8) (b : List Byte)
    (p : List PortEvent) : insertPhase (reframe m b p s) = .go () (reframe m b p t) := by
  rcases insertPhase_cases s with ⟨-, -, -, hp⟩ | ⟨prev, notFull, room, hp⟩ | ⟨still, hp⟩ <;> rw [hp] at h <;> cases h
  · exact insertPhase_of_room (s := reframe m b p s) prev notFull room
  · exact insertPhase_of_nothing (s := reframe m b p s) still

theorem insertPhase_keeps_source {s t : State} (h : insertPhase s = .go () t) :
    t.ports = s.ports ∧ t.subrem = s.subrem ∧ t.bs = s.bs := by
  rcases insertPhase_cases s with ⟨-, -, -, hp⟩ | ⟨-, -, -, hp⟩ | ⟨-, hp⟩ <;> rw [hp] at h <;> cases h <;>
    exact ⟨rfl, rfl, rfl⟩

theorem insertPhase_reframed {s s' t : State} (re : Reframed s s') (h : insertPhase s = .go () t) :
    ∃ t', insertPhase s' = .go () t' ∧ Reframed t t' ∧ keepsEnd s t ∧ keepsEnd s' t' := by
  obtain ⟨ports, subrem, bs⟩ := insertPhase_keeps_source h
  have go := insertPhase_reframe_go h s'.subrem s'.bs s'.ports
  rw [← re.frame] at go
  obtain ⟨ports', subrem', bs'⟩ := insertPhase_keeps_source go
  refine ⟨_, go, ⟨⟨rfl, ?_⟩, ?_⟩, ?_, ?_⟩
  · rw [ports', ports, re.writes]
  · rw [subrem', bs', subrem, bs, re.bytes]
  · rw [keepsEnd, subrem, bs]
  · rw [keepsEnd, subrem', bs']

/-- `FetchData` takes the same byte behind both framings. -/
theorem fetchData_reframed {s s' t : State} (re : Reframed s s') (code : s.flight.draining = false)
    (h : fetchData s = .go () t) :
    ∃ t', fetchData s' = .go () t' ∧ Reframed t t' ∧ keepsEnd s t ∧ keepsEnd s' t' := by
  have code' : s'.flight.draining = false := re.toAlike.flight ▸ code
  rcases hd : dataBytes s.subrem.toNat s.bs with _ | ⟨d, ds⟩
  case nil =>
    obtain ⟨u, terminated, exhausted, -⟩ := fetchData_of_dataBytes_nil code hd
    rw [h] at terminated exhausted
    cases hr : afterTerminator s.subrem.toNat s.bs with
    | none => cases (exhausted hr).1
    | some r => cases (terminated r hr).1
  case cons =>
    obtain ⟨u, flow, frame, took, rest, ends⟩ := fetchData_of_dataBytes_cons code hd
    obtain ⟨u', flow', frame', took', rest', ends'⟩ := fetchData_of_dataBytes_cons code' (re.bytes.trans hd)
    rw [h] at flow
    cases flow
    refine ⟨u', flow', ⟨⟨?_, ?_⟩, rest'.trans rest.symm⟩, ends, ends'⟩
    · rw [frame', re.frame, frame]
      rfl
    · rw [writesSeen_of_tookBytes took', writesSeen_of_tookBytes took, re.writes]

theorem loadByte_reframed {s s' v : State} {got : Nat} (re : Reframed s s') (code : s.flight.draining = false)
    (h : loadByte got s = .go () v) :
    ∃ v', loadByte got s' = .go () v' ∧ Reframed v v' ∧ keepsEnd s v ∧ keepsEnd s' v' := by
  have shift := re.toAlike.shift
  have noted := reframed_of_commutes re (fun s => { s with flight := { s.flight with got := got } })
    (fun _ _ _ => rfl) rfl rfl rfl
  unfold loadByte at h
  split at h
  case isTrue empty =>
    obtain ⟨v', flow, re', ends, ends'⟩ := fetchData_reframed noted code h
    exact ⟨v', (if_pos (shift.trans empty)).trans flow, re', ends, ends'⟩
  case isFalse loaded =>
    cases h
    exact ⟨_, if_neg fun empty => loaded (shift.symm.trans empty), noted, rfl, rfl⟩

/-- Loading a byte for a code does not begin a `Drain` (R85). -/
theorem loadByte_draining {s v : State} {got : Nat} (code : s.flight.draining = false)
    (h : loadByte got s = .go () v) : v.flight.draining = false := by
  unfold loadByte at h
  split at h
  case isFalse => cases h; exact code
  case isTrue =>
    rcases fetchData_cases { s with flight := { s.flight with got := got } } code with
      ⟨t, flow, -, -, flight, -⟩ | ⟨t, flow, -⟩ | ⟨t, flow, -⟩ <;> rw [flow] at h <;> cases h
    rw [flight]
    exact code

theorem readRounds_reframed {f n got c c' : Nat} {s s' t : State} (re : Reframed s s')
    (code : s.flight.draining = false) (h : readRounds f n got c s = .go c' t) :
    ∃ t', readRounds f n got c s' = .go c' t' ∧ Reframed t t' ∧ keepsEnd s t ∧ keepsEnd s' t' := by
  induction f generalizing got c s s' with
  | zero => cases h; exact ⟨s', rfl, re, rfl, rfl⟩
  | succ f ih =>
    rcases Nat.lt_or_ge got n with more | ready
    case inr =>
      rw [readRounds_of_enough ready] at h ⊢
      cases h
      exact ⟨s', rfl, re, rfl, rfl⟩
    case inl =>
      rw [readRounds_succ more] at h ⊢
      obtain ⟨_, v, load, rounds⟩ := andThen_go.1 h
      obtain ⟨v', load', re', ends, ends'⟩ := loadByte_reframed re code load
      have codeNow : (roundDone n got v).flight.draining = false :=
        loadByte_draining (v := v) code load
      have next := reframed_of_commutes re' (roundDone n got) (fun _ _ _ => rfl) rfl rfl rfl
      obtain ⟨t', flow, re'', ends2, ends2'⟩ := ih next codeNow rounds
      refine ⟨t', ?_, re'', keepsEnd_trans ends ends2, keepsEnd_trans ends' ends2'⟩
      rw [load', andThen_of_go, re'.toAlike.cur, re'.toAlike.shift]
      exact flow

theorem readCode_reframed {n c : Nat} {s s' t : State} (re : Reframed s s') (code : s.flight.draining = false)
    (h : readCode n s = .go c t) :
    ∃ t', readCode n s' = .go c t' ∧ Reframed t t' ∧ keepsEnd s t ∧ keepsEnd s' t' := by
  obtain ⟨least, greatest, -⟩ := bits_of_readCode_go code h
  have loop (s : State) : readCode n s = readRounds n n 0 0 s := if_pos ⟨least, greatest⟩
  rw [loop] at h ⊢
  exact readRounds_reframed re code h

theorem codeRead_reframed {s s' u : State} {c : Nat} (re : Reframed s s') (read : codeRead s c u) :
    ∃ u', codeRead s' c u' ∧ Reframed u u' ∧ keepsEnd s u ∧ keepsEnd s' u' := by
  obtain ⟨t, ins, read⟩ := read
  obtain ⟨t', ins', re1, ends1, ends1'⟩ := insertPhase_reframed re ins
  obtain ⟨u', read', re2, ends2, ends2'⟩ := readCode_reframed re1 (insertPhase_flight ins) read
  exact ⟨u', ⟨t', ins', re1.toAlike.width ▸ read'⟩, re2, keepsEnd_trans ends1 ends2, keepsEnd_trans ends1' ends2'⟩

/-! ## The ends of a step behind another framing -/

/-- Where the terminator comes, no data byte is left exactly when it is the next byte (R61). -/
theorem atTerminator_iff {s : State} (stop : (afterTerminator s.subrem.toNat s.bs).isSome = true) :
    atTerminator s = true ↔ dataBytes s.subrem.toNat s.bs = [] := by
  rcases hb : s.bs with _ | ⟨n, r⟩
  case nil => rw [hb, afterTerminator_nil] at stop; cases stop
  case cons =>
    rw [atTerminator, hb]
    by_cases closed : s.subrem = 0#8
    case neg => simp [closed, dataBytes_data n r closed]
    case pos =>
      by_cases term : n = 0#8
      case pos => simp [closed, term, dataBytes_term]
      case neg =>
        have bytes : r ≠ [] := by
          rintro rfl
          rw [hb, closed, BitVec.toNat_ofNat, Nat.zero_mod, afterTerminator_of_len [] term, afterTerminator_nil] at stop
          cases stop
        simp only [closed, List.head?_cons, Option.some.injEq, term, decide_false, Bool.and_false]
        constructor
        · nofun
        · intro h
          exact absurd (eq_nil_of_dataBytes_eq_nil term ((dataBytes_len r term).symm.trans h)) bytes

/-- The two stop codes end their runs alike: bytes are discarded behind both framings or behind none (R86, R122). -/
theorem stopCode_reframed {u u' t : State} (re : Reframed u u')
    (stop : (afterTerminator u.subrem.toNat u.bs).isSome = true)
    (stop' : (afterTerminator u'.subrem.toNat u'.bs).isSome = true) (h : stopCode u = .next t) :
    ∃ t', stopCode u' = .next t' ∧ Alike t t' := by
  obtain ⟨r, hr⟩ := Option.isSome_iff_exists.1 stop
  obtain ⟨r', hr'⟩ := Option.isSome_iff_exists.1 stop'
  have trail : (u'.trail || !atTerminator u') = (u.trail || !atTerminator u) := by
    have same : atTerminator u' = atTerminator u := by
      rw [Bool.eq_iff_iff, atTerminator_iff stop, atTerminator_iff stop', re.bytes]
    rw [same, re.frame]
    rfl
  rw [stopCode_of_terminator hr] at h
  cases h
  refine ⟨_, stopCode_of_terminator hr', ?_, ?_⟩
  · rw [trail, re.frame]
    rfl
  · simp only [writesSeen_append, writesSeen_byteRecord, re.writes]

/-- Where the code stream is too short for the code, the two steps raise the same fault with the same `INFO` (R154). -/
theorem readCode_reframed_halt {n k : Nat} {s s' u : State} {c : Cause} (re : Reframed s s') (least : 3 ≤ n)
    (greatest : n ≤ 12) (code : s.flight.draining = false)
    (stop : (afterTerminator s.subrem.toNat s.bs).isSome = true)
    (stop' : (afterTerminator s'.subrem.toNat s'.bs).isSome = true)
    (h : readCode n s = .halt (.next (faulted c k u))) :
    ∃ t', readCode n s' = .halt (.next t') ∧ Alike (faulted c k u) t' := by
  have code' : s'.flight.draining = false := re.toAlike.flight ▸ code
  have bits : unreadBits s' = unreadBits s := by
    rw [unreadBits, unreadBits, re.toAlike.cur, re.toAlike.shift, re.bytes]
  rcases Nat.lt_or_ge (unreadBits s).length n with few | enough
  case inr =>
    obtain ⟨t, go, -⟩ := readCodeTakesNextBits n s least greatest code enough
    rw [h] at go
    cases go
  case inl =>
    obtain ⟨r, hr⟩ := Option.isSome_iff_exists.1 stop
    obtain ⟨r', hr'⟩ := Option.isSome_iff_exists.1 stop'
    obtain ⟨t, terminated, -, took, frame⟩ := readCodeRunsOut n s least greatest code few
    obtain ⟨t', terminated', -, took', frame'⟩ := readCodeRunsOut n s' least greatest code' (bits ▸ few)
    have same := Host.Outcome.next.inj (Flow.halt.inj (h.symm.trans (terminated r hr).1))
    rw [re.bytes] at frame'
    refine ⟨_, (terminated' r' hr').1, ?_, ?_⟩
    · rw [same, bits, frame', frame, re.frame]
      rfl
    · rw [same]
      exact (writesSeen_of_tookBytes took').trans (re.writes.trans (writesSeen_of_tookBytes took).symm)

@[simp] theorem runWrites_reframe (m : BitVec 8) (b : List Byte) (p : List PortEvent) (u : State) (q : Nat)
    (r : List Byte) : runWrites (reframe m b p u) q r = runWrites u q r :=
  runWrites_congr (s := u) (t := reframe m b p u) (fun _ => rfl) q r

/-- A data code neither sees the source nor moves it: it does the same writes behind any framing (R127). -/
theorem dataCode_reframe {c : Code} {u t : State} {r : List Byte} (hw : u.w ≠ 0#16)
    (hr : runOf u.table walkFuel c.toNat = some r) (h : dataCode c u = .next t) :
    ∃ ws, t.ports = wroteRecord ws ++ u.ports ∧ t.subrem = u.subrem ∧ t.bs = u.bs ∧
      ∀ m b p, dataCode c (reframe m b p u) = .next (reframe m b (wroteRecord ws ++ p) t) := by
  by_cases inside : pixelsInside u u.off.toNat r.length = true
  case pos =>
    rw [dataCode_of_runOf hr hw inside] at h
    cases h
    refine ⟨runWrites u u.off.toNat r, ?_⟩
    rw [dataDone_eq]
    refine ⟨rfl, rfl, rfl, fun m b p => ?_⟩
    rw [dataCode_of_runOf (s := reframe m b p u) hr hw inside, dataDone_eq, runWrites_reframe]
    rfl
  case neg =>
    obtain ⟨k, hk, outside, above⟩ := exists_last_not fun all => inside (pixelsInside_iff.2 all)
    have cut (s : State) := dataCodeOutOfRange (.ref c) c s r k (.inr (.inl rfl))
    have ends : dataCode c u = _ := cut u hr hw hk (Nat.not_lt.1 outside) above
    rw [ends] at h
    cases h
    refine ⟨runWrites u (u.off.toNat + k + 1) (r.drop (k + 1)), rfl, rfl, rfl, fun m b p => ?_⟩
    have ends' : dataCode c (reframe m b p u) = _ := cut (reframe m b p u) hr hw hk (Nat.not_lt.1 outside) above
    rw [ends', paint, runWrites_reframe]
    rfl

theorem dataCode_reframed {c : Code} {u u' t : State} {r : List Byte} (re : Reframed u u') (hw : u.w ≠ 0#16)
    (hr : runOf u.table walkFuel c.toNat = some r) (h : dataCode c u = .next t) :
    ∃ t', dataCode c u' = .next t' ∧ Reframed t t' ∧ keepsEnd u t ∧ keepsEnd u' t' := by
  obtain ⟨ws, ports, subrem, bs, again⟩ := dataCode_reframe hw hr h
  have again' := again u'.subrem u'.bs u'.ports
  rw [← re.frame] at again'
  refine ⟨_, again', ⟨⟨rfl, ?_⟩, ?_⟩, ?_, rfl⟩
  · rw [ports, writesSeen_append, ← re.writes, ← writesSeen_append]
    rfl
  · rw [subrem, bs]
    exact re.bytes
  · rw [keepsEnd, subrem, bs]

/-! ## The step behind another framing -/

/-- The next state of a step behind another framing: the same but for what is left of the framing, which goes on alike
while the run does (R86). -/
structure SameOutcome (s s' t t' : State) : Prop where
  alike : Alike t t'
  goesOn : t.state = .busy → Reframed t t' ∧ keepsEnd s t ∧ keepsEnd s' t'

theorem sameOutcome_of_ended {s s' t t' : State} (alike : Alike t t') (ended : t.state ≠ .busy) :
    SameOutcome s s' t t' := ⟨alike, fun busy => absurd busy ended⟩

theorem sameOutcome_of_reframed {s s' t t' : State} (re : Reframed t t') (ends : keepsEnd s t)
    (ends' : keepsEnd s' t') : SameOutcome s s' t t' := ⟨re.toAlike, fun _ => ⟨re, ends, ends'⟩⟩

/-- The outcome of a `SYMBOL` step whose code was read, by the operation its class is (R120). -/
theorem runFetched_of_codeRead {s u : State} {c : Nat} (read : codeRead s c u) :
    runFetched (fetchedOf (fetchSymbol s)) =
      if (BitVec.ofNat 12 c).toNat = 2 ^ u.size.toNat then clearCode u.size.toNat u
      else if (BitVec.ofNat 12 c).toNat = 2 ^ u.size.toNat + 1 then stopCode u
      else if u.nent.toNat ≤ (BitVec.ofNat 12 c).toNat then
        .next (faulted .invalidCode (BitVec.ofNat 12 c).toNat (growWidth u))
      else dataCode (BitVec.ofNat 12 c) u := by
  rw [fetchSymbol_of_codeRead read]
  exact exec_classify _ _ _ _ u rfl

theorem SymbolStep.reframed {s s' t : State} (h : SymbolStep s t) (re : Reframed s s') (inv : Inv s)
    (busy : s.state = .busy) (symbol : s.phase = .symbol)
    (ends : t.state = .busy ∨ (afterTerminator s.subrem.toNat s.bs).isSome = true ∧
      (afterTerminator s'.subrem.toNat s'.bs).isSome = true) :
    ∃ t', runFetched (fetchedOf (fetchSymbol s')) = .next t' ∧ SameOutcome s s' t t' := by
  have terminated (ended : t.state ≠ .busy) := ends.resolve_left ended
  cases h with
  | noRoom prev notFull depth =>
    have room : insertPhase s' = .halt (.next (faulted .outOfMemory s.nent.toNat s')) := by
      rw [re.frame]
      exact insertPhase_of_no_room (s := reframe s'.subrem s'.bs s'.ports s) prev notFull depth
    refine ⟨_, by rw [fetchSymbol_of_insert_halt room]; rfl, sameOutcome_of_ended ?_ nofun⟩
    exact alike_of_commutes re.toAlike (faulted .outOfMemory s.nent.toNat) (fun _ _ _ => rfl) rfl
  | noCode ins halts moved cause =>
    obtain ⟨stop, stop'⟩ := terminated nofun
    obtain ⟨i', ins', re', ends, ends'⟩ := insertPhase_reframed re ins
    obtain ⟨least, greatest⟩ := fetchWidth_bounds inv busy symbol ins
    obtain ⟨t', halts', alike⟩ := readCode_reframed_halt re' least greatest (insertPhase_flight ins)
      (ends.symm ▸ stop) (ends'.symm ▸ stop') halts
    have read' : readCode i'.width.toNat i' = .halt (.next t') := by
      rw [re'.toAlike.width]
      exact halts'
    exact ⟨t', by rw [fetchSymbol_of_read_halt ins' read']; rfl, sameOutcome_of_ended alike nofun⟩
  | @clear c u read isClear =>
    obtain ⟨u', read', re', ends, ends'⟩ := codeRead_reframed re read
    have cleared := reframed_of_commutes re' (clearReset u.size.toNat) (fun _ _ _ => rfl) rfl rfl rfl
    refine ⟨clearReset u.size.toNat u', ?_, sameOutcome_of_reframed cleared ends ends'⟩
    rw [runFetched_of_codeRead read', re'.toAlike.size, if_pos isClear, clearCode]
  | @stop c u t read notClear isStop h =>
    have ended := stopCode_state h
    obtain ⟨stop, stop'⟩ := terminated ended
    obtain ⟨u', read', re', ends, ends'⟩ := codeRead_reframed re read
    obtain ⟨t', h', alike⟩ := stopCode_reframed re' (ends.symm ▸ stop) (ends'.symm ▸ stop') h
    refine ⟨t', ?_, sameOutcome_of_ended alike ended⟩
    rw [runFetched_of_codeRead read', re'.toAlike.size, if_neg notClear, if_pos isStop, h']
  | @invalid c u read notClear notStop above =>
    obtain ⟨u', read', re', -, -⟩ := codeRead_reframed re read
    have commutes (m : BitVec 8) (b : List Byte) (p : List PortEvent) :
        growWidth (reframe m b p u) = reframe m b p (growWidth u) := by
      rw [growWidth_eq, growWidth_eq]
      rfl
    have grown := alike_of_commutes re'.toAlike growWidth commutes (growWidth_ports u)
    have fault := alike_of_commutes grown (faulted .invalidCode (BitVec.ofNat 12 c).toNat) (fun _ _ _ => rfl) rfl
    refine ⟨_, ?_, sameOutcome_of_ended fault nofun⟩
    rw [runFetched_of_codeRead read', re'.toAlike.size, re'.toAlike.nent, if_neg notClear, if_neg notStop, if_pos above]
  | @data c u t read notClear notStop below does =>
    have mid := reading_of_codeRead inv busy symbol read
    obtain ⟨r, hr, -⟩ := mid.dataCode_cases notClear notStop below
    obtain ⟨u', read', re', ends, ends'⟩ := codeRead_reframed re read
    obtain ⟨t', does', re'', ends2, ends2'⟩ := dataCode_reframed re' mid.subWidth hr does
    refine ⟨t', ?_, sameOutcome_of_reframed re'' (keepsEnd_trans ends ends2) (keepsEnd_trans ends' ends2')⟩
    rw [runFetched_of_codeRead read', re'.toAlike.size, re'.toAlike.nent, if_neg notClear, if_neg notStop,
      if_neg (Nat.not_le.2 below), does']

/-- Settles O53: the two steps read one code from one stream and end in one operation. -/
theorem framingMakesNoDifference : Obligations.FramingMakesNoDifference := by
  intro s t e rem bytes inv turn busy symbol same h ends
  have turn' : blockTurn { s with subrem := rem, bs := bytes } e := turn
  have re : Reframed { s with env := e } { s with env := e, subrem := rem, bs := bytes } := ⟨⟨rfl, rfl⟩, same⟩
  have h := step_of_symbol turn busy symbol ▸ h
  obtain ⟨t', h', alike, goesOn⟩ :=
    (symbolStep_of_next h).reframed re (inv_of_host inv e s.hostData) busy symbol ends
  refine ⟨t'.subrem, t'.bs, t'.ports, ?_, alike.writes, fun still => ?_⟩
  · have step' := (step_of_symbol turn' busy symbol).trans h'
    exact step'.trans (congrArg Host.Outcome.next alike.frame)
  · obtain ⟨re', kept, kept'⟩ := goesOn still
    exact ⟨re'.bytes, kept', kept⟩

end Sys2Proof.Machine
end

section
/-!
The host port and the environment (R13, R19, R29, R48, R140, R170, R172, R174): the words a read answers, the accesses
that are refused, what the environment does outside `BUSY`, hardware reset; and O37 to O43.
-/
namespace Sys2Proof.Machine

/-! ## Reads -/

theorem hostRead_of_some {off : Nat} {v : Word} {s : State} (h : regRead off s = some v) :
    hostRead 32 off s = .next { s with hostData := some v } := by
  rw [hostRead, if_pos rfl, h]

theorem step_of_read {s : State} {bits off : Nat} {r : List EnvEvent} (turn : s.env = .read bits off :: r) :
    step s = hostRead bits off { s with env := r } := by
  rw [step_of_event turn]
  rfl

/-- A register that is one 16-bit field reads as that field, the high half 0 (R15). -/
theorem extractLsb'_setWidth_halves (w : BitVec 16) :
    (w.setWidth 32).extractLsb' 0 16 = w ∧ (w.setWidth 32).extractLsb' 16 16 = 0#16 := by
  refine ⟨by simp [← BitVec.setWidth_eq_extractLsb'], ?_⟩
  ext i hi
  simp

/-- Settles O37: each offset has its register, and the step is the read alone. -/
theorem registerReads : Obligations.RegisterReads := by
  intro s off r turn h
  have read (v : Word) (hv : regRead off s = some v) : step s = .next { s with env := r, hostData := some v } :=
    (step_of_read turn).trans (hostRead_of_some (s := { s with env := r }) hv)
  have pair (high low : BitVec 16) : (high ++ low).extractLsb' 0 16 = low ∧ (high ++ low).extractLsb' 16 16 = high :=
    ⟨BitVec.extractLsb'_append_eq_right, BitVec.extractLsb'_append_eq_left⟩
  simp only [List.mem_cons, List.not_mem_nil, or_false] at h
  rcases h with rfl | rfl | rfl | rfl | rfl | rfl | rfl | rfl <;> refine ⟨_, rfl, read _ rfl, ?_⟩
  all_goals simp [pair, extractLsb'_setWidth_halves]

/-- Settles O38: `STATE`, `CAUSE` and `TRAIL` by their values, of which there are finitely many. -/
theorem statusFields : Obligations.StatusFields := by
  intro s v h
  obtain rfl : statusWord s = v := Option.some.inj h
  unfold statusWord
  generalize s.state = state
  generalize s.cause = cause
  generalize s.trail = trail
  revert trail
  cases cause with
  | none => cases state <;> decide
  | some c => cases state <;> cases c <;> decide

/-- Where each field of `LZWSTAT` stands (R19). -/
theorem getLsbD_lzwstatWord (s : State) {i : Nat} (word : i < 32) :
    (lzwstatWord s).getLsbD i =
      (s.width.getLsbD i || (decide (4 ≤ i) && (BitVec.ofBool s.full).getLsbD (i - 4)) ||
        (decide (5 ≤ i) && (BitVec.ofBool s.hasPrev).getLsbD (i - 5)) ||
        (decide (6 ≤ i) && (phaseCode s.phase).getLsbD (i - 6)) || (decide (8 ≤ i) && s.size.getLsbD (i - 8)) ||
        (decide (16 ≤ i) && s.nent.getLsbD (i - 16))) := by
  have shifted (k : Nat) : (!decide (i < k)) = decide (k ≤ i) := by rw [Bool.eq_iff_iff]; simp
  have inside (k : Nat) : decide (i - k < 32) = true := decide_eq_true (by omega)
  simp only [lzwstatWord, BitVec.getLsbD_or, BitVec.getLsbD_shiftLeft, BitVec.getLsbD_setWidth, word, shifted, inside,
    decide_true, Bool.true_and]

/-- Settles O39: each field stands alone at its place, and nothing stands at the reserved bits. -/
theorem lzwstatFields : Obligations.LzwstatFields := by
  intro s v h
  obtain rfl : lzwstatWord s = v := Option.some.inj h
  refine ⟨?width, ?full, ?hasPrev, ?phase, ?reserved7, ?size, ?reserved12, ?nent, ?reserved29⟩
  case full | hasPrev | reserved7 =>
    rw [getLsbD_lzwstatWord s (by decide)]
    simp
  case phase =>
    rw [getLsbD_lzwstatWord s (by decide)]
    cases s.phase <;> simp [phaseCode]
  case width | size | reserved12 | nent | reserved29 =>
    refine BitVec.eq_of_getLsbD_eq fun i hi => ?_
    rw [BitVec.getLsbD_extractLsb', getLsbD_lzwstatWord s (by omega)]
    interval_cases i <;> simp

/-! ## Refused accesses -/

/-- No register stands at any other offset (R48). -/
theorem no_register_elsewhere {off : Nat} (h : off ∉ [0x00, 0x04, 0x08, 0x0C, 0x10, 0x14, 0x18, 0x1C]) (s : State)
    (v : Word) : regRead off s = none ∧ decodeHostWrite off v = .error .noRegister := by
  simp only [List.mem_cons, List.not_mem_nil, or_false, not_or] at h
  constructor
  · unfold regRead
    split
    case h_9 => rfl
    all_goals omega
  · unfold decodeHostWrite
    split
    case h_9 => rfl
    all_goals omega

/-- Settles O40: another width is refused before the offset is looked at, another offset has no register. -/
theorem otherAccessesRefused : Obligations.OtherAccessesRefused := by
  intro s bits off v r other
  constructor
  · intro turn
    have none : (if bits = 32 then regRead off { s with env := r } else none) = none := by
      split
      case isFalse => rfl
      case isTrue width => exact (no_register_elsewhere (other.resolve_left (not_not_intro width)) _ v).1
    rw [step_of_read turn, hostRead, none]
  · intro turn
    rw [step_of_event turn, fetchEvent, fetchWrite]
    split
    case isFalse => rfl
    case isTrue width =>
      rw [(no_register_elsewhere (other.resolve_left (not_not_intro width)) s v).2]
      rfl

/-! ## The environment's own acts -/

/-- Settles O41: both acts are refused while `BUSY`; outside, the byte written exists or it does not. -/
theorem exclusiveUse : Obligations.ExclusiveUse := by
  intro s bytes a v r
  have frame (turn : s.env = .frame a v :: r) : step s = placeFrameByte a v { s with env := r } := by
    rw [step_of_event turn]
    rfl
  refine ⟨fun turn => ?_, fun turn busy => ?_, fun turn rest inside => ?_, fun turn rest outside => ?_⟩
  · rw [step_of_event turn]
    rfl
  · exact (frame turn).trans (if_pos busy)
  · refine ⟨{ s with env := r, fb := store s.fb a v }, ?_, rfl, ?_, fun b hb => ?_⟩
    · exact (frame turn).trans ((if_neg rest).trans (if_pos inside))
    · exact (if_pos inside).trans (lookup_store_same ..)
    · exact congrArg (fun m => if b < frameBytes s then m else none) (lookup_store_other s.fb v hb)
  · exact (frame turn).trans ((if_neg rest).trans (if_neg (Nat.not_lt.2 outside)))

/-! ## Reset -/

/-- A byte that no pixel number has as its address keeps its value (U3). -/
theorem lookup_freePixels_of_other {s : State} {a : Nat} (other : ∀ p, fbAddr s p ≠ a) (n : Nat)
    (fb : List Host.Cell) : lookup (freePixels s n fb) a = lookup fb a := by
  induction n generalizing fb with
  | zero => rfl
  | succ p ih =>
    rw [freePixels, ih]
    split
    · exact lookup_store_other _ _ (other p).symm
    · rfl

/-- A byte that is free stays free. -/
theorem lookup_freePixels_of_free {s : State} {a : Nat} (n : Nat) {fb : List Host.Cell}
    (free : lookup fb a = some (Config.freeByte s.freeCtr a)) :
    lookup (freePixels s n fb) a = some (Config.freeByte s.freeCtr a) := by
  induction n generalizing fb with
  | zero => exact free
  | succ p ih =>
    rw [freePixels]
    apply ih
    split
    · rw [lookup_store]
      split
      case isTrue same => rw [same]
      case isFalse => exact free
    · exact free

/-- A byte of the run is free (U3). -/
theorem lookup_freePixels_of_inside {s : State} {n p : Nat} (inside : fbAddr s p < frameBytes s) (hp : p < n)
    (fb : List Host.Cell) :
    lookup (freePixels s n fb) (fbAddr s p) = some (Config.freeByte s.freeCtr (fbAddr s p)) := by
  induction n generalizing fb with
  | zero => exact absurd hp (Nat.not_lt_zero _)
  | succ m ih =>
    rw [freePixels]
    rcases Nat.lt_succ_iff_lt_or_eq.1 hp with below | rfl
    · exact ih below _
    · rw [if_pos inside]
      exact lookup_freePixels_of_free p (lookup_store_same ..)

theorem frameAfterReset_of_rest {s : State} (rest : s.state ≠ .busy) : frameAfterReset s = s.fb := if_neg rest

theorem frameAfterReset_of_busy {s : State} (busy : s.state = .busy) :
    frameAfterReset s = freePixels s (runPixels s) s.fb := if_pos busy

/-- What a reset does to the frame buffer (R170, U3): the bytes of a run in progress are free, all others are kept.
While `W = 0` the run has no pixel number (R45). -/
theorem frameAfterReset_spec (s : State) :
    (s.state ≠ .busy → frameAfterReset s = s.fb) ∧ (s.w = 0#16 → frameAfterReset s = s.fb) ∧
      (∀ a, (∀ p, fbAddr s p ≠ a) → lookup (frameAfterReset s) a = lookup s.fb a) ∧
      (s.state = .busy → s.w ≠ 0#16 → ∀ p, fbAddr s p < frameBytes s →
        lookup (frameAfterReset s) (fbAddr s p) = some (Config.freeByte s.freeCtr (fbAddr s p))) := by
  refine ⟨frameAfterReset_of_rest, fun hw => ?_, fun a other => ?_, fun busy hw p inside => ?_⟩
  · by_cases busy : s.state = .busy
    · have none : runPixels s = 0 := by rw [runPixels, hw]; rfl
      rw [frameAfterReset_of_busy busy, none]
      rfl
    · exact frameAfterReset_of_rest busy
  · by_cases busy : s.state = .busy
    · rw [frameAfterReset_of_busy busy, lookup_freePixels_of_other other]
    · rw [frameAfterReset_of_rest busy]
  · rw [frameAfterReset_of_busy busy]
    exact lookup_freePixels_of_inside inside (lt_runPixels_of_inside hw inside) s.fb

/-- Settles O43: the reset state, `started`, and the seeding of a legal size. -/
theorem resetColumns : Obligations.ResetColumns := by
  refine ⟨?reset, fun s t rest h => ?start, fun s t b least greatest h => ?init⟩
  case reset => exact ⟨rfl, rfl, rfl, rfl, rfl, rfl, rfl, rfl, rfl, fun _ => rfl⟩
  case start =>
    rw [exec_start, unlessBusy_of_not_busy started rest] at h
    cases h
    exact ⟨rfl, rfl, rfl, rfl⟩
  case init =>
    rw [exec_mcs_of_legal s least greatest] at h
    cases h
    exact ⟨rfl, seeded_size_toNat s greatest, freshRegisters_width_toNat s greatest,
      freshRegisters_nent_toNat s greatest, rfl, rfl, rfl, rfl⟩

end Sys2Proof.Machine

namespace Sys2Proof

/-- Settles O42: the event is the reset, whose one effect beyond its registers is on the frame buffer. -/
theorem hardwareReset : Obligations.HardwareReset := by
  intro s r turn
  exact ⟨Machine.hardwareReset { s with env := r }, Machine.step_of_event turn, rfl,
    Machine.frameAfterReset_spec { s with env := r }⟩

end Sys2Proof
end
